-- ==== Sys2Proof/Word.lean ====
section
/-! DEFINITION. The words that cross CORE's boundary (30_encoding.md). A command word has one width, 8 bits, and is a bit
vector. A time value has TIME_W bits and a channel value PW_W bits, and both widths are parameters of the block
(00_scope.md R6), so these two are natural numbers whose range is an invariant of the state (DESIGN CHOICE, log entry 4, safe). -/

namespace Sys2Proof

/-- An 8-bit command word, or the 8-bit STATUS view (R42, R23). -/
abbrev Byte := BitVec 8

/-- One input of CORE, as its bits arrive (R40). Each is one atomic step of the machine.
* `evt word`: an edge event of the signal line, the `1 + TIME_W`-bit word `lvl, t` (R41);
* `cmd8 c`: a host transaction, selected by its command word (R42);
* `rst`: the reset input, which has no fields (R44). -/
inductive Input where
  | evt (word : Nat)
  | cmd8 (c : Byte)
  | rst
deriving DecidableEq, Repr

end Sys2Proof
end

