-- ==== Sys2Proof/Config.lean ====
section
/-! DEFINITION. The parameters of CORE (00_scope.md R6, R7) and, apart from them, those of the host's side only. All are
compile-time constants of the source: no step writes one. The spec leaves no behaviour of CORE open, so there is no free
value here (93_implementation_defined.md, last line of section 1). -/

namespace Sys2Proof

/-- `N_CH`, the channels per frame: fixed at 6 (R6). -/
abbrev nCh : Nat := 6

/-- The parameters of CORE (R6). `tickNs` is `TICK` in nanoseconds: no rule of CORE
reads it (DESIGN CHOICE, log entry 19, safe). -/
structure Params where
  timeW  : Nat
  tickNs : Nat
  syncTh : Nat
  pwMin  : Nat
  pwMid  : Nat
  pwMax  : Nat
  margin : Nat
  pwW    : Nat
deriving DecidableEq, Repr

namespace Params

/-- The Default column of R6. -/
def default : Params where
  timeW  := 32
  tickNs := 1000
  syncTh := 5000
  pwMin  := 840
  pwMid  := 1250
  pwMax  := 1680
  margin := 100
  pwW    := 16

/-- `CLAMP_LO = PW_MIN - MARGIN` (R6). The subtraction is exact where `valid` holds. -/
def clampLo (p : Params) : Nat := p.pwMin - p.margin

/-- `CLAMP_HI = PW_MAX + MARGIN` (R6). -/
def clampHi (p : Params) : Nat := p.pwMax + p.margin

/-- The constraints of R7 on CORE's parameters. `margin ≤ pwMin` says that `0 ≤ CLAMP_LO` over the integers. -/
def valid (p : Params) : Bool :=
  decide (p.margin ≤ p.pwMin) && decide (p.clampLo ≤ p.clampHi) && decide (p.clampHi < 2 ^ p.pwW) &&
  decide (0 < p.syncTh) && decide (p.syncTh < 2 ^ p.timeW) &&
  decide (p.pwMin < p.pwMid) && decide (p.pwMid < p.pwMax)

/-- How long the time base runs before it wraps, in nanoseconds (R91, R101). -/
def wrapPeriodNs (p : Params) : Nat := 2 ^ p.timeW * p.tickNs

end Params

/-- `MAP_ARITH` of R78: exact division over the rationals, or integer division truncated toward zero. -/
inductive MapArith where
  | exact
  | trunc
deriving DecidableEq, Repr

/-- The host-side parameters of R6. `deadzone`, `mapArith`, `pollDelay` and `snapvInit` are OPEN in the spec (D27, D28,
D31): the model gives them no value and a claim holds for every one. -/
structure HostParams where
  timeout   : Nat
  btnLo     : Nat
  btnHi     : Nat
  deadzone  : Rat
  mapArith  : MapArith
  pollDelay : Nat
  snapvInit : Vector Nat 6
deriving DecidableEq, Repr

namespace HostParams

/-- The defaults of R6 for the host's side, the OPEN parameters left to the caller. -/
def withDefaults (deadzone : Rat) (mapArith : MapArith) (pollDelay : Nat) (snapvInit : Vector Nat 6) : HostParams where
  timeout   := 100000
  btnLo     := 1050
  btnHi     := 1580
  deadzone  := deadzone
  mapArith  := mapArith
  pollDelay := pollDelay
  snapvInit := snapvInit

/-- The host-side constraints: `BTN_LO < PW_MID < BTN_HI` (R7) and `DEADZONE ≥ 0` (D28). -/
def valid (h : HostParams) (p : Params) : Bool :=
  decide (h.btnLo < p.pwMid) && decide (p.pwMid < h.btnHi) && decide (0 ≤ h.deadzone)

end HostParams

end Sys2Proof
end

