-- ==== Sys2Proof/Syntax.lean ====
section
/-! DEFINITION. The instructions of CORE: one constructor for each row of spec/opcode_table.json, in the table's order. CORE is
not a stored-program machine (R20): an instruction is one input, already decoded. The table spreads the 251 reserved command
words over seven rows, by their leading bits, and so does the type (DESIGN CHOICE, log entry 12, safe). -/

namespace Sys2Proof

/-- One step of CORE (R11, R40 to R44).
* `edgeL t`, `edgeH t`: an edge event whose sampled level is LOW or HIGH, at time `t` (R53, R54);
* `rdStatus` to `rdLastt`: the five host transactions (R66 to R70);
* `reserved05` to `reserved80`: the reserved command words (R71), named by the row's match value, each with the bits that the
  row's mask leaves free;
* `reset`: the reset input (R96). -/
inductive Instr where
  | edgeL (t : Nat)
  | edgeH (t : Nat)
  | rdStatus
  | clrReady
  | snap
  | take
  | rdLastt
  | reserved05
  | reserved06 (x : BitVec 1)
  | reserved08 (x : BitVec 3)
  | reserved10 (x : BitVec 4)
  | reserved20 (x : BitVec 5)
  | reserved40 (x : BitVec 6)
  | reserved80 (x : BitVec 7)
  | reset
deriving DecidableEq, Repr

end Sys2Proof
end

