-- ==== Sys2Proof/WellFormed.lean ====
section
/-! DEFINITION. Which terms are instructions of a CORE with given parameters. The operands of the commands are bit vectors of
the right width already; the only check left is that a time value has TIME_W bits (R41, R45). -/

namespace Sys2Proof

/-- `t` is a TIME_W-bit value (R41). -/
def Params.isTime (p : Params) (t : Nat) : Bool := decide (t < 2 ^ p.timeW)

/-- An instruction that some input of CORE encodes. -/
def Instr.wellFormed (p : Params) : Instr → Bool
  | .edgeL t => p.isTime t
  | .edgeH t => p.isTime t
  | .rdStatus => true
  | .clrReady => true
  | .snap => true
  | .take => true
  | .rdLastt => true
  | .reserved05 => true
  | .reserved06 _ => true
  | .reserved08 _ => true
  | .reserved10 _ => true
  | .reserved20 _ => true
  | .reserved40 _ => true
  | .reserved80 _ => true
  | .reset => true

/-- A command word that the reserved rows of R43 mark. -/
def Instr.isReserved : Instr → Bool
  | .edgeL _ => false
  | .edgeH _ => false
  | .rdStatus => false
  | .clrReady => false
  | .snap => false
  | .take => false
  | .rdLastt => false
  | .reserved05 => true
  | .reserved06 _ => true
  | .reserved08 _ => true
  | .reserved10 _ => true
  | .reserved20 _ => true
  | .reserved40 _ => true
  | .reserved80 _ => true
  | .reset => false

/-- A host transaction: any `CMD8` input, legal or reserved (R40). -/
def Instr.isCommand : Instr → Bool
  | .edgeL _ => false
  | .edgeH _ => false
  | .rdStatus => true
  | .clrReady => true
  | .snap => true
  | .take => true
  | .rdLastt => true
  | .reserved05 => true
  | .reserved06 _ => true
  | .reserved08 _ => true
  | .reserved10 _ => true
  | .reserved20 _ => true
  | .reserved40 _ => true
  | .reserved80 _ => true
  | .reset => false

end Sys2Proof
end

