-- ==== Sys2Proof/Decode.lean ====
section
/-! DEFINITION. From the bits of an input to an instruction and back (30_encoding.md). The decoder is total: every command word and the
reset input decode, and an `evt` word decodes unless it has more bits than format `EVT` has. -/

namespace Sys2Proof

/-- Why bits are no input of CORE. -/
inductive DecodeError where
  /-- The word given as an edge event does not fit the `1 + TIME_W` bits of format `EVT` (R41). -/
  | evtTooWide
deriving DecidableEq, Repr

/-- The width of format `EVT` (R41, R48). -/
def Params.evtW (p : Params) : Nat := 1 + p.timeW

/-- The bits of an input fit its format (R48): an `EVT` is `1 + TIME_W` bits, a command word is 8 by its type. -/
def Input.fits (p : Params) : Input → Bool
  | .evt w => decide (w < 2 ^ p.evtW)
  | .cmd8 _ => true
  | .rst => true

/-- Field `op` of a command word, `c[3:0]` (R42). -/
def cmdOp (c : Byte) : BitVec 4 := c.extractLsb' 0 4

/-- Field `z` of a command word, `c[7:4]` (R42). -/
def cmdZ (c : Byte) : BitVec 4 := c.extractLsb' 4 4

/-- R43: "A word is legal exactly when `c[7:4] = 0` and `c[3:0]` is one of the five assigned codes." -/
def cmdLegal (c : Byte) : Bool := cmdZ c == 0#4 && decide (cmdOp c ≤ 4#4)

/-- The command-code map of R43, the reserved words by the rows of spec/opcode_table.json: a row's match value stands in the bits that
its mask keeps, and the bits below are its operand. -/
def decodeCmd (c : Byte) : Instr :=
  if c = 0x00#8 then .rdStatus
  else if c = 0x01#8 then .clrReady
  else if c = 0x02#8 then .snap
  else if c = 0x03#8 then .take
  else if c = 0x04#8 then .rdLastt
  else if c = 0x05#8 then .reserved05
  else if c.extractLsb' 1 7 = 0b0000011#7 then .reserved06 (c.extractLsb' 0 1)
  else if c.extractLsb' 3 5 = 0b00001#5 then .reserved08 (c.extractLsb' 0 3)
  else if c.extractLsb' 4 4 = 0b0001#4 then .reserved10 (c.extractLsb' 0 4)
  else if c.extractLsb' 5 3 = 0b001#3 then .reserved20 (c.extractLsb' 0 5)
  else if c.extractLsb' 6 2 = 0b01#2 then .reserved40 (c.extractLsb' 0 6)
  else .reserved80 (c.extractLsb' 0 7)

/-- The level and the time of an `EVT` word: `lvl` at bit `TIME_W`, `t` below it. The level alone selects the operation (R41). -/
def decodeEvt (p : Params) (w : Nat) : Instr :=
  if w.testBit p.timeW then .edgeH (w % 2 ^ p.timeW) else .edgeL (w % 2 ^ p.timeW)

/-- The decoder (R40 to R44). Every `EVT` of the right width and every `RST` is legal (R47). -/
def decode (p : Params) : Input → Except DecodeError Instr
  | .evt w => if w < 2 ^ p.evtW then .ok (decodeEvt p w) else .error .evtTooWide
  | .cmd8 c => .ok (decodeCmd c)
  | .rst => .ok .reset

/-- `EVT = {lvl, t}` (R41). The sum is the concatenation where `t` has at most `TIME_W` bits, as in every well-formed instruction. A wider `t` has no encoding; the sum then spills into
the level bit and stands for nothing (DESIGN CHOICE, log entry 8, safe): `assemble` refuses such a line before it is encoded. -/
def encodeEvt (p : Params) (lvl : Bool) (t : Nat) : Nat := (if lvl then 2 ^ p.timeW else 0) + t

/-- The input that stands for an instruction, written from the same tables (R41 to R44). -/
def encode (p : Params) : Instr → Input
  | .edgeL t => .evt (encodeEvt p false t)
  | .edgeH t => .evt (encodeEvt p true t)
  | .rdStatus => .cmd8 0x00#8
  | .clrReady => .cmd8 0x01#8
  | .snap => .cmd8 0x02#8
  | .take => .cmd8 0x03#8
  | .rdLastt => .cmd8 0x04#8
  | .reserved05 => .cmd8 0x05#8
  | .reserved06 x => .cmd8 (0b0000011#7 ++ x)
  | .reserved08 x => .cmd8 (0b00001#5 ++ x)
  | .reserved10 x => .cmd8 (0b0001#4 ++ x)
  | .reserved20 x => .cmd8 (0b001#3 ++ x)
  | .reserved40 x => .cmd8 (0b01#2 ++ x)
  | .reserved80 x => .cmd8 (0b1#1 ++ x)
  | .reset => .rst

/-- The input port whose words have `nbits` bits: 0 is the reset input, 8 the command port, `1 + TIME_W` (or that rounded up to whole
bytes) the edge port. No other width is a format of CORE (R48). DESIGN CHOICE, log entry 13, safe. -/
def inputOfTableWord (p : Params) (nbits w : Nat) : Option Input :=
  if nbits = 0 then some .rst
  else if nbits = 8 then (if w < 2 ^ 8 then some (.cmd8 (BitVec.ofNat 8 w)) else none)
  else if nbits = p.evtW ∨ nbits = (p.evtW + 7) / 8 * 8 then some (.evt w)
  else none

/-- What the decoder reads, at the default parameters that spec/opcode_table.json assumes, from a word as that table numbers its bits. -/
def decodeTableWord (nbits w : Nat) : Option Instr :=
  match inputOfTableWord Params.default nbits w with
  | none => none
  | some x =>
    match decode Params.default x with
    | .ok i => some i
    | .error _ => none

end Sys2Proof
end

