-- ==== Sys2Proof/Machine/State.lean ====
section
/-! DEFINITION. The state of CORE (10_state.md), what the model keeps beside it (the parameters, the inputs the environment has ready, the
responses returned), and the state after reset. Plain data throughout. -/

namespace Sys2Proof.Machine

/-- The state of CORE: "exactly the fields below. Nothing else is state" (R12).
* `ref`: `REF`, the time of the most recent edge event, TIME_W bits, hidden (R13);
* `sync`: `SYNC`, the sync-acquired flag (R14);
* `idx`: `IDX`, the index of the next channel to capture, 3 bits, 6 meaning that all are captured (R15);
* `ready`: `READY`, the frame-ready flag (R16);
* `buf`: `BUF[0..5]`, the raw channel buffer, PW_W bits each (R17);
* `lastt`: `LASTT`, the time of the edge event that completed the most recent frame, TIME_W bits (R18). -/
structure CoreState where
  ref   : Nat
  sync  : Bool
  idx   : BitVec 3
  ready : Bool
  buf   : Vector Nat 6
  lastt : Nat
deriving DecidableEq, Repr

/-- Every field at its reset value in the table of R12 (R96). The values are the spec's decision D10, since its source gives none: UNVERIFIED, log entry 10, unsafe. -/
def CoreState.reset : CoreState where
  ref   := 0
  sync  := false
  idx   := 0#3
  ready := false
  buf   := #v[0, 0, 0, 0, 0, 0]
  lastt := 0

/-- The payload of a response (R46), as a record. -/
inductive Payload where
  /-- CLR_READY and the reserved words return none. -/
  | empty
  /-- RD_STATUS returns STATUS. -/
  | status (b : Byte)
  /-- SNAP returns the six channel values. -/
  | snap (v : Vector Nat 6)
  /-- TAKE returns whether a frame was ready, and the six values. -/
  | take (wasReady : Bool) (v : Vector Nat 6)
  /-- RD_LASTT returns the last-frame timestamp. -/
  | lastt (t : Nat)
deriving DecidableEq, Repr

/-- What a host transaction returns: `ok` is 1 for a legal command word and 0 for a reserved one (R46). -/
structure Response where
  ok      : Bool
  payload : Payload
deriving DecidableEq, Repr

/-- CORE raises no exception, no fault and no trap (R83), and "No behaviour of CORE is a `fault` or `stuck` case" (93_implementation_defined.md):
there is nothing to raise (DEDUCED, log entry 18, safe). -/
inductive Fault where
deriving DecidableEq, Repr

/-- Why the model answers with no next state. Each of these is safe: the machine stops where the spec gives no step. -/
inductive Refusal where
  /-- Raised by exec's arm of an instruction that has no meaning yet: none here. Safe. -/
  | notModelled (mnemonic : String)
  /-- Raised by step: the parameters break a constraint of R7, which lets a model refuse such a configuration. DESIGN CHOICE, log entry 5, safe. -/
  | illegalParams
  /-- Raised by step: `IDX = 7`, which is unreachable. "A model whose state type admits it should `refuse` such a state and never give it a
  step" (93_implementation_defined.md U11). DESIGN CHOICE, log entry 6, safe. -/
  | idxSeven
  /-- Raised by step: the word at the edge port is wider than format `EVT` (R41), so it is no input of CORE. DESIGN CHOICE, log entry 7, safe. -/
  | evtTooWide
deriving DecidableEq, Repr

/-- The machine: CORE's state, and three things that are not state of CORE (R25), which the model keeps beside it (each a DESIGN CHOICE).
* `params`: the parameters CORE is built with (R6). No step writes them (log entry 1, safe).
* `inputs`: the inputs that the environment has ready, in the order it chose, the next one first (R34; log entry 2, safe).
* `out`: the responses returned to the host, the oldest first (R46; log entry 3, safe). -/
structure State where
  params : Params
  core   : CoreState
  inputs : List Input
  out    : List Response
deriving DecidableEq, Repr

/-- A CORE of the given parameters right after reset, with no input ready and nothing returned (R96, R97). -/
def State.resetWith (p : Params) : State where
  params := p
  core   := CoreState.reset
  inputs := []
  out    := []

/-- The machine right after reset, at the default parameters of R6. -/
def State.reset : State := State.resetWith Params.default

end Sys2Proof.Machine
end

