-- ==== Sys2Proof/Machine/Flags.lean ====
section
/-! DEFINITION. What is computed from the control state: STATUS (R23), the output `ready_o` (R24), the guards of the capture branch (R56, R57), and the
state-machine view of (`SYNC`, `IDX`) (R21). -/

namespace Sys2Proof.Machine

/-- `STATUS = {0b000, IDX[2:0], SYNC, READY}` (R23). -/
def statusWord (c : CoreState) : Byte :=
  0b000#3 ++ c.idx ++ BitVec.ofBool c.sync ++ BitVec.ofBool c.ready

/-- The level of the output signal `ready_o`, which equals `READY` at all times (R24). -/
def State.readyO (s : State) : Bool := s.core.ready

/-- `S.SYNC = 1 and S.IDX < N_CH`: a channel pulse is captured (R54, R56). -/
def CoreState.canCapture (c : CoreState) : Bool := c.sync && decide (c.idx.toNat < nCh)

/-- `S.IDX + 1 = N_CH`: this capture is the frame's last (R54, R57). -/
def CoreState.isLastChannel (c : CoreState) : Bool := decide (c.idx.toNat + 1 = nCh)

/-- `IDX` has a value that R15 gives it. -/
def CoreState.idxLegal (c : CoreState) : Bool := decide (c.idx.toNat ≤ nCh)

/-- The state names of the decoder's state machine (R21). -/
inductive Phase where
  | idle
  | capturing (k : Fin 6)
  | done
deriving DecidableEq, Repr

/-- The phase that (`SYNC`, `IDX`) names (R21). `Idle` is `SYNC = 0`; the index 7 has no name. -/
def CoreState.phase (c : CoreState) : Option Phase :=
  if c.sync = false then some .idle
  else if h : c.idx.toNat < 6 then some (.capturing ⟨c.idx.toNat, h⟩)
  else if c.idx.toNat = 6 then some .done
  else none

/-- The State-after column of R59's table for an `EDGE.H` of duration `d`; an `EDGE.L` leaves the phase as it is. -/
def Phase.afterEdgeH (p : Params) (d : Nat) : Phase → Phase
  | .idle => if p.syncTh < d then .capturing 0 else .idle
  | .capturing k => if p.syncTh < d then .capturing 0 else if h : k.val + 1 < 6 then .capturing ⟨k.val + 1, h⟩ else .done
  | .done => if p.syncTh < d then .capturing 0 else .done

end Sys2Proof.Machine
end

