-- ==== Sys2Proof/Machine/Operands.lean ====
section
/-! DEFINITION. The arithmetic of CORE, all of it (R10, R60: "No other arithmetic exists in CORE"): each primitive is computed exactly over the integers and
narrowed at the end. -/

namespace Sys2Proof.Machine

/-- `sub_W(a, b) = (a - b) mod 2^TIME_W`, the overflow-safe difference of two time values (R10, R52, R60 (a)). -/
def subW (p : Params) (a b : Nat) : Nat :=
  (((a : Int) - (b : Int)) % ((2 ^ p.timeW : Nat) : Int)).toNat

/-- `clamp(v, lo, hi)`, on unbounded numbers (R10, R60 (c)). -/
def clamp (v lo hi : Nat) : Nat :=
  if v < lo then lo else if hi < v then hi else v

/-- The operand `t` of an edge event as an unsigned TIME_W-bit value (R45). A well-formed instruction holds such a value already; of any other,
which no input encodes, the low TIME_W bits are taken (DESIGN CHOICE, log entry 8, safe). -/
def timeVal (p : Params) (t : Nat) : Nat := t % 2 ^ p.timeW

/-- The value as it lies in a PW_W-bit element of the buffer (`zext_PW_W`, R10, R45). -/
def pwVal (p : Params) (v : Nat) : Nat := v % 2 ^ p.pwW

/-- What a capture of duration `d` stores: `zext_PW_W(clamp(d, CLAMP_LO, CLAMP_HI))` (R45, R56). -/
def channelVal (p : Params) (d : Nat) : Nat := pwVal p (clamp d p.clampLo p.clampHi)

/-- The sync test: the strict, unsigned `d > SYNC_TH` (R55, R60 (b), 90_conflicts.md C1). -/
def isSyncGap (p : Params) (d : Nat) : Bool := decide (p.syncTh < d)

end Sys2Proof.Machine
end

