-- ==== Sys2Proof/Machine/Ops.lean ====
section
/-! DEFINITION. The named operations that the meanings are made of: the writes to CORE's state, each with the rule that gives it, and the response to the host.
CORE has no addressable memory (R26), so no operation reads or writes one; it raises no exception and has no return from one (R83, R88, R89), so no operation
takes one: an input that the source would call abnormal has an ordinary effect (R84). -/

namespace Sys2Proof.Machine

/-- `REF <- t`, which every edge event does (R52). -/
def CoreState.recordTime (p : Params) (t : Nat) (c : CoreState) : CoreState :=
  { c with ref := timeVal p t }

/-- The sync branch: `IDX <- 0`, `SYNC <- 1`, and nothing else (R55). -/
def CoreState.acquireSync (c : CoreState) : CoreState :=
  { c with idx := 0#3, sync := true }

/-- `BUF[S.IDX] <- zext_PW_W(clamp(d, CLAMP_LO, CLAMP_HI))` and `IDX <- S.IDX + 1` (R56). -/
def CoreState.storeChannel (p : Params) (d : Nat) (c : CoreState) : CoreState :=
  { c with buf := c.buf.setIfInBounds c.idx.toNat (channelVal p d), idx := c.idx + 1#3 }

/-- Completion: `READY <- 1`, `LASTT <- t` (R57). -/
def CoreState.completeFrame (p : Params) (t : Nat) (c : CoreState) : CoreState :=
  { c with ready := true, lastt := timeVal p t }

/-- The capture branch, with the completion that the sixth capture adds (R56, R57). -/
def CoreState.capture (p : Params) (t d : Nat) (c : CoreState) : CoreState :=
  if c.isLastChannel then (c.storeChannel p d).completeFrame p t else c.storeChannel p d

/-- One of the three branches of an `EDGE.H`, in the priority of R87 (c): sync gap, then capture, then ignore (R54 to R58). -/
def CoreState.edgeHBranch (p : Params) (t d : Nat) (c : CoreState) : CoreState :=
  if isSyncGap p d then c.acquireSync
  else if c.canCapture then c.capture p t d
  else c

/-- `READY <- 0`, the only write a host makes (R65, R67, R69). -/
def CoreState.clearReady (c : CoreState) : CoreState :=
  { c with ready := false }

/-- Replace CORE's state, all fields in one step (R31, R33). -/
def State.setCore (c : CoreState) (s : State) : State :=
  { s with core := c }

/-- `respond(r)`: the response record a host transaction returns (R10, R46). -/
def State.respond (r : Response) (s : State) : State :=
  { s with out := s.out ++ [r] }

/-- The response to a reserved command word: `ok = 0` with no payload, and no state change (R71). -/
def State.respondReserved (s : State) : State :=
  s.respond { ok := false, payload := .empty }

/-! ### The packed bit layout of a payload (R46) -/

/-- Six channel values as one number, `v[i]` at bits `[PW_W*i + PW_W - 1 : PW_W*i]` (R46). -/
def packChannels (p : Params) (v : Vector Nat 6) : Nat :=
  v.toList.foldr (fun x acc => pwVal p x + 2 ^ p.pwW * acc) 0

/-- A payload's width in bits (R30, R46). -/
def Payload.width (p : Params) : Payload → Nat
  | .empty => 0
  | .status _ => 8
  | .snap _ => nCh * p.pwW
  | .take _ _ => 1 + nCh * p.pwW
  | .lastt _ => p.timeW

/-- A payload packed into bits, bit 0 the least significant (R46). -/
def Payload.pack (p : Params) : Payload → Nat
  | .empty => 0
  | .status b => b.toNat
  | .snap v => packChannels p v
  | .take w v => (if w then 1 else 0) + 2 * packChannels p v
  | .lastt t => timeVal p t

end Sys2Proof.Machine
end

