-- ==== Sys2Proof/Machine/Edge.lean ====
section
/-! DEFINITION. The edge events: pulse-width timer, sync detector and frame assembler (40_edge_decoder.md). -/

namespace Sys2Proof.Machine

/-- `EDGE.L t` (R53): the duration is computed and not used; `REF <- t`, and every other field keeps its value. -/
def execEdgeL (t : Nat) (s : State) : Host.Outcome State Fault Refusal :=
  .next (s.setCore (s.core.recordTime s.params t))

/-- `EDGE.H t` (R54): `d := sub_W(t, S.REF)`, `REF <- t`, and one of the branches of R55 to R58. -/
def execEdgeH (t : Nat) (s : State) : Host.Outcome State Fault Refusal :=
  let d := subW s.params t s.core.ref
  .next (s.setCore ((s.core.recordTime s.params t).edgeHBranch s.params t d))

end Sys2Proof.Machine
end

