-- ==== Sys2Proof/Machine/HostPort.lean ====
section
/-! DEFINITION. The host transactions (41_host_port.md). Each is one atomic step (R31, R65). -/

namespace Sys2Proof.Machine

/-- `RD_STATUS` (R66): return STATUS; the state is unchanged. -/
def execRdStatus (s : State) : Host.Outcome State Fault Refusal :=
  .next (s.respond { ok := true, payload := .status (statusWord s.core) })

/-- `CLR_READY` (R67): `READY <- 0`. -/
def execClrReady (s : State) : Host.Outcome State Fault Refusal :=
  .next ((s.setCore s.core.clearReady).respond { ok := true, payload := .empty })

/-- `SNAP` (R68): return the six channel values of one state. -/
def execSnap (s : State) : Host.Outcome State Fault Refusal :=
  .next (s.respond { ok := true, payload := .snap s.core.buf })

/-- `TAKE` (R69): return `READY` and the six values, and clear `READY`, in one step. -/
def execTake (s : State) : Host.Outcome State Fault Refusal :=
  .next ((s.setCore s.core.clearReady).respond { ok := true, payload := .take s.core.ready s.core.buf })

/-- `RD_LASTT` (R70): return the last-frame timestamp. -/
def execRdLastt (s : State) : Host.Outcome State Fault Refusal :=
  .next (s.respond { ok := true, payload := .lastt s.core.lastt })

/-- The reserved word `0x05` (R71). -/
def execReserved05 (s : State) : Host.Outcome State Fault Refusal :=
  .next s.respondReserved

/-- The reserved words `0x06` and `0x07` (R71): the free bits have no effect. -/
def execReserved06 (_x : BitVec 1) (s : State) : Host.Outcome State Fault Refusal :=
  .next s.respondReserved

/-- The reserved words `0x08` to `0x0F` (R71). -/
def execReserved08 (_x : BitVec 3) (s : State) : Host.Outcome State Fault Refusal :=
  .next s.respondReserved

/-- The reserved words `0x10` to `0x1F` (R71). -/
def execReserved10 (_x : BitVec 4) (s : State) : Host.Outcome State Fault Refusal :=
  .next s.respondReserved

/-- The reserved words `0x20` to `0x3F` (R71). -/
def execReserved20 (_x : BitVec 5) (s : State) : Host.Outcome State Fault Refusal :=
  .next s.respondReserved

/-- The reserved words `0x40` to `0x7F` (R71). -/
def execReserved40 (_x : BitVec 6) (s : State) : Host.Outcome State Fault Refusal :=
  .next s.respondReserved

/-- The reserved words `0x80` to `0xFF` (R71). -/
def execReserved80 (_x : BitVec 7) (s : State) : Host.Outcome State Fault Refusal :=
  .next s.respondReserved

end Sys2Proof.Machine
end

