-- ==== Sys2Proof/Machine/Reset.lean ====
section
/-! DEFINITION. The reset input (70_reset_and_hazards.md R96). -/

namespace Sys2Proof.Machine

/-- `RESET` (R96): every field of CORE takes its reset value, all in one step. The parameters are fixed when CORE is built (R99), the inputs still to come are the
environment's, and what the host has received stays received; a reset returns no response (DESIGN CHOICE,
log entries 1 to 3, safe). -/
def execReset (s : State) : Host.Outcome State Fault Refusal :=
  .next (s.setCore CoreState.reset)

end Sys2Proof.Machine
end

