-- ==== Sys2Proof/Machine/Dispatch.lean ====
section
/-! DEFINITION. One arm per constructor of Instr. -/

namespace Sys2Proof.Machine

def exec (i : Instr) (s : State) : Host.Outcome State Fault Refusal :=
  match i with
  | .edgeL t => Sys2Proof.Machine.execEdgeL t s
  | .edgeH t => Sys2Proof.Machine.execEdgeH t s
  | .rdStatus => Sys2Proof.Machine.execRdStatus s
  | .clrReady => Sys2Proof.Machine.execClrReady s
  | .snap => Sys2Proof.Machine.execSnap s
  | .take => Sys2Proof.Machine.execTake s
  | .rdLastt => Sys2Proof.Machine.execRdLastt s
  | .reserved05 => Sys2Proof.Machine.execReserved05 s
  | .reserved06 x => Sys2Proof.Machine.execReserved06 x s
  | .reserved08 x => Sys2Proof.Machine.execReserved08 x s
  | .reserved10 x => Sys2Proof.Machine.execReserved10 x s
  | .reserved20 x => Sys2Proof.Machine.execReserved20 x s
  | .reserved40 x => Sys2Proof.Machine.execReserved40 x s
  | .reserved80 x => Sys2Proof.Machine.execReserved80 x s
  | .reset => Sys2Proof.Machine.execReset s

end Sys2Proof.Machine
end

