-- ==== Sys2Proof/Machine/Step.lean ====
section
/-! DEFINITION. One step of the machine: take the next input that the environment has ready, decode it, and run it (R11, R20, R34). -/

namespace Sys2Proof.Machine

/-- One atomic step. A configuration that breaks R7 and the unreachable index 7 are refused (R7, U11). With no input ready CORE waits (R29, R97): the state stays as
it is (DESIGN CHOICE, log entry 2, safe). Otherwise the next input leaves the queue and its instruction runs. -/
def step (s : State) : Host.Outcome State Fault Refusal :=
  if s.params.valid = false then .refused .illegalParams
  else if s.core.idxLegal = false then .refused .idxSeven
  else
    match s.inputs with
    | [] => .next s
    | x :: rest =>
      match decode s.params x with
      | .error .evtTooWide => .refused .evtTooWide
      | .ok i => exec i { s with inputs := rest }

/-- The environment presents one instruction's word as the very next input, on the port whose words have that width. A width that no port has presents nothing
(DESIGN CHOICE, log entry 13, safe). -/
def State.withFetchWord (s : State) (nbits w : Nat) : State :=
  match inputOfTableWord s.params nbits w with
  | none => s
  | some x => { s with inputs := x :: s.inputs }

end Sys2Proof.Machine
end

