-- ==== Sys2Proof/Machine/Assembly.lean ====
section
/-! DEFINITION. The syntax in which the spec writes programs, and its one pseudo-instruction (30_encoding.md R49, R50). A text is a list of characters. What R49 leaves
open (spaces, commas, blank lines, a time that does not fit, other spellings of a reserved word) is log entry 14 (DESIGN CHOICE, safe). -/

namespace Sys2Proof.Machine

/-- One line of a program: an input of CORE, or the pseudo-instruction `PULSE tf, tr` (R50). -/
inductive AsmLine where
  | instr (i : Instr)
  | pulse (tf tr : Nat)
deriving DecidableEq, Repr

/-- `PULSE tf, tr` expands to `EDGE.L tf` and `EDGE.H tr` (R50). -/
def AsmLine.expand : AsmLine → List Instr
  | .instr i => [i]
  | .pulse tf tr => [.edgeL tf, .edgeH tr]

/-- The inputs that a program stands for, in order. A line whose time has more than `TIME_W` bits is no input of CORE (R41), and R49 and R50 give it no meaning: a program with one is
not assembled (DESIGN CHOICE, log entry 14, safe). -/
def assemble (p : Params) (prog : List AsmLine) : Option (List Input) :=
  if (prog.flatMap AsmLine.expand).all (·.wellFormed p) then some ((prog.flatMap AsmLine.expand).map (encode p)) else none

/-- The value of a decimal or hexadecimal digit. -/
def digitVal (c : Char) : Option Nat :=
  if 48 ≤ c.toNat ∧ c.toNat ≤ 57 then some (c.toNat - 48)
  else if 65 ≤ c.toNat ∧ c.toNat ≤ 70 then some (c.toNat - 55)
  else if 97 ≤ c.toNat ∧ c.toNat ≤ 102 then some (c.toNat - 87)
  else none

/-- Digits of one base, the most significant first, after the value read so far. -/
def digitsVal (base : Nat) : List Char → Nat → Option Nat
  | [], acc => some acc
  | c :: cs, acc =>
    match digitVal c with
    | some d => if d < base then digitsVal base cs (acc * base + d) else none
    | none => none

/-- "Numbers are decimal or `0x` hexadecimal" (R49). -/
def numberVal : List Char → Option Nat
  | [] => none
  | ['0', 'x'] => none
  | '0' :: 'x' :: cs => digitsVal 16 cs 0
  | cs => digitsVal 10 cs 0

/-- Split a line into its words, the current word kept in reverse. -/
def splitWords : List Char → List Char → List (List Char)
  | [], cur => if cur = [] then [] else [cur.reverse]
  | c :: cs, cur =>
    if c = ' ' ∨ c = '\t' ∨ c = ',' then
      if cur = [] then splitWords cs [] else cur.reverse :: splitWords cs []
    else splitWords cs (c :: cur)

/-- The words of a line, without its comment: "`;` starts a comment" (R49). -/
def lineWords (line : List Char) : List (List Char) :=
  splitWords (line.takeWhile (· ≠ ';')) []

/-- A line with one word. -/
def parseBare (w : List Char) : Option AsmLine :=
  if w = ['R', 'D', '_', 'S', 'T', 'A', 'T', 'U', 'S'] then some (.instr .rdStatus)
  else if w = ['C', 'L', 'R', '_', 'R', 'E', 'A', 'D', 'Y'] then some (.instr .clrReady)
  else if w = ['S', 'N', 'A', 'P'] then some (.instr .snap)
  else if w = ['T', 'A', 'K', 'E'] then some (.instr .take)
  else if w = ['R', 'D', '_', 'L', 'A', 'S', 'T', 'T'] then some (.instr .rdLastt)
  else if w = ['R', 'E', 'S', 'E', 'T'] then some (.instr .reset)
  else none

/-- "A reserved word is written `CMD 0xNN`" (R49): an assigned code is not written so. R49 shows that one form. The model takes the word in any spelling of a number that R49 has,
decimal (`CMD 19`) or with another count of hexadecimal digits (`CMD 0x013`), where its value is a reserved word (DESIGN CHOICE, log entry 14, safe). -/
def parseReserved (n : Nat) : Option AsmLine :=
  if n < 2 ^ 8 ∧ (decodeCmd (BitVec.ofNat 8 n)).isReserved then some (.instr (decodeCmd (BitVec.ofNat 8 n))) else none

/-- A line with a word and a number. A line is read without the parameters, so a time of any size is taken here; `assemble` refuses one that does not fit (DESIGN CHOICE, log entry 14,
safe). -/
def parseUnary (w : List Char) (n : Nat) : Option AsmLine :=
  if w = ['E', 'D', 'G', 'E', '.', 'H'] then some (.instr (.edgeH n))
  else if w = ['E', 'D', 'G', 'E', '.', 'L'] then some (.instr (.edgeL n))
  else if w = ['C', 'M', 'D'] then parseReserved n
  else none

/-- A line with a word and two numbers: `PULSE tf, tr` (R50). Times of any size, as in `parseUnary`. -/
def parseBinary (w : List Char) (n m : Nat) : Option AsmLine :=
  if w = ['P', 'U', 'L', 'S', 'E'] then some (.pulse n m) else none

/-- One line: nothing, one input, or an error (`none`). "One input per line" (R49). -/
def parseLine (line : List Char) : Option (List AsmLine) :=
  match lineWords line with
  | [] => some []
  | [w] => (parseBare w).map ([·])
  | [w, a] => (numberVal a).bind fun n => (parseUnary w n).map ([·])
  | [w, a, b] => (numberVal a).bind fun n => (numberVal b).bind fun m => (parseBinary w n m).map ([·])
  | _ => none

/-- A program's lines in order; an error in one is an error of the whole. -/
def parseProgram : List (List Char) → Option (List AsmLine)
  | [] => some []
  | l :: ls => (parseLine l).bind fun a => (parseProgram ls).map (a ++ ·)

end Sys2Proof.Machine
end

