-- ==== Sys2Proof/Machine/Run.lean ====
section
/-! DEFINITION. Sequences of steps: the execution of CORE "is one totally ordered sequence of atomic steps, and each step sees the state left by every step before it"
(20_memory.md R34). -/

namespace Sys2Proof.Machine

/-- Go on with the next state, or stop where the first step stopped. -/
def andThen {σ τ : Type} (r : Host.Outcome σ Fault Refusal) (f : σ → Host.Outcome τ Fault Refusal) : Host.Outcome τ Fault Refusal :=
  match r with
  | .next s => f s
  | .fault e => .fault e
  | .refused e => .refused e

/-- Run instructions in order, the first one first (R34). -/
def runAll : List Instr → State → Host.Outcome State Fault Refusal
  | [], s => .next s
  | i :: is, s => andThen (exec i s) (runAll is)

/-- `k` steps of the machine. -/
def stepN : Nat → State → Host.Outcome State Fault Refusal
  | 0, s => .next s
  | k + 1, s => andThen (step s) (stepN k)

end Sys2Proof.Machine
end

