-- ==== Sys2Proof/Machine/Consumer.lean ====
section
/-! DEFINITION. The reference host of CORE, the source's Frame Consumer (45_host_consumer.md). It is outside the block (00_scope.md R5 (a)): no definition of CORE reads
anything of this file, and its state is its own (R25, R74). It reaches CORE only by running transactions (DESIGN CHOICE, log entry 15, safe). -/

namespace Sys2Proof.Machine

/-- The host's own state (R74). A stick value is a rational number, since exact arithmetic gives fractions (DESIGN CHOICE, log entry 16, safe); its range is `Consumer.Inv`. `top` and
`bot` are the two button pairs. -/
structure Consumer where
  snapv : Vector Nat 6
  stick : Vector Rat 4
  top   : Vector Bool 2
  bot   : Vector Bool 2
  lost  : Bool
deriving DecidableEq, Repr

/-- "`STICK[0..3]`: integers in `[-100, 100]`" (R74). The range holds under both arithmetics; that a stick is an integer holds under `TRUNC`, while `EXACT` gives fractions by R78
(DESIGN CHOICE, log entry 16). -/
def Consumer.Inv (h : HostParams) (c : Consumer) : Prop :=
  (∀ k : Fin 4, -100 ≤ c.stick[k] ∧ c.stick[k] ≤ 100) ∧ (h.mapArith = .trunc → ∀ k : Fin 4, ∃ n : Int, c.stick[k] = n)

/-- A host that has run no cycle yet: its snapshot is `SNAPV_INIT` and its sticks are legal values (R74). What they are, and what the booleans are, the spec does not say: any
legal value (DESIGN CHOICE, log entry 17, safe). -/
def Consumer.AtStart (h : HostParams) (c : Consumer) : Prop := c.snapv = h.snapvInit ∧ c.Inv h

/-- What the host emits (R80). The text has no format in the spec (U15), so it is data here. `raw` holds the raw values in ticks: R80 says "raw microseconds" and R78 "in ticks", which
are one number at the default `TICK` of 1 microsecond, and the spec gives no conversion for another (DESIGN CHOICE, log entry 21). -/
inductive HostOutput where
  | startup
  | lossNotice
  | report (raw : Vector Nat 4) (stick : Vector Rat 4) (top bot : Vector Bool 2)
deriving DecidableEq, Repr

/-- The boot duty of R99 (a): "emit `a startup readiness line`". -/
def Consumer.boot : List HostOutput := [.startup]

/-- The signal-loss test: `sub_W(now, lt) > TIMEOUT`, strict (R76, D29). -/
def signalLost (p : Params) (h : HostParams) (now lt : Nat) : Bool :=
  decide (h.timeout < subW p now lt)

/-- The forced safe state of R76. -/
def Consumer.forceSafe (c : Consumer) : Consumer :=
  { c with stick := #v[0, 0, 0, 0], top := #v[false, false], bot := #v[false, false], lost := true }

/-- `SNAPV <- r.v` if a frame was ready; otherwise the previous snapshot stays (R77). `frame` is what the frame take brought: the six values, or nothing. -/
def Consumer.takeFrame (frame : Option (Vector Nat 6)) (c : Consumer) : Consumer :=
  match frame with
  | some v => { c with snapv := v }
  | none => c

/-- `lin(x, a, b, c, e) = (x - a) * (e - c) / (b - a) + c`, the division by `MAP_ARITH` (R78). -/
def lin (arith : MapArith) (x a b c e : Int) : Rat :=
  match arith with
  | .exact => ((x - a) * (e - c) : Int) / ((b - a : Int) : Rat) + (c : Int)
  | .trunc => ((((x - a) * (e - c)).tdiv (b - a) + c : Int) : Rat)

/-- The mapped value before the clamp and the deadzone (R78). -/
def stickLin (p : Params) (arith : MapArith) (r : Nat) : Rat :=
  if r ≤ p.pwMid then lin arith r p.pwMin p.pwMid (-100) 0 else lin arith r p.pwMid p.pwMax 0 100

/-- The clamp to `[-100, 100]` (R78). -/
def stickClamp (m : Rat) : Rat := if m < -100 then -100 else if 100 < m then 100 else m

/-- "any mapped magnitude at or below the deadzone constant collapses to exactly 0" (R78). -/
def stickDeadzone (h : HostParams) (m : Rat) : Rat := if -h.deadzone ≤ m ∧ m ≤ h.deadzone then 0 else m

/-- The stick mapping `stick(r)` (R78). -/
def stickMap (p : Params) (h : HostParams) (r : Nat) : Rat :=
  stickDeadzone h (stickClamp (stickLin p h.mapArith r))

/-- `top := (r < BTN_LO)` (R79). -/
def buttonTop (h : HostParams) (r : Nat) : Bool := decide (r < h.btnLo)

/-- `bot := (r > BTN_HI)` (R79). -/
def buttonBot (h : HostParams) (r : Nat) : Bool := decide (h.btnHi < r)

/-- The sticks from channels 1 to 4 and the buttons from channels 5 and 6, recomputed every cycle from the snapshot (R75, R77 to R79). -/
def Consumer.convert (p : Params) (h : HostParams) (c : Consumer) : Consumer :=
  { c with
    stick := #v[stickMap p h c.snapv[0], stickMap p h c.snapv[1], stickMap p h c.snapv[2], stickMap p h c.snapv[3]],
    top := #v[buttonTop h c.snapv[4], buttonTop h c.snapv[5]],
    bot := #v[buttonBot h c.snapv[4], buttonBot h c.snapv[5]] }

/-- The structured report of a cycle (R80): the raw values as the snapshot holds them, in ticks (DESIGN CHOICE, log entry 21). -/
def Consumer.reportLine (c : Consumer) : HostOutput :=
  .report #v[c.snapv[0], c.snapv[1], c.snapv[2], c.snapv[3]] c.stick c.top c.bot

/-- The rest of a cycle after the frame take (R75, R77 to R79). -/
def Consumer.finish (p : Params) (h : HostParams) (frame : Option (Vector Nat 6)) (c : Consumer) : Consumer :=
  ({ c with lost := false }.takeFrame frame).convert p h

/-- The timestamp in the response just returned. -/
def State.gotLastt (s : State) : Option Nat :=
  match s.out.getLast? with
  | some ⟨_, .lastt t⟩ => some t
  | _ => none

/-- The STATUS word in the response just returned. -/
def State.gotStatus (s : State) : Option Byte :=
  match s.out.getLast? with
  | some ⟨_, .status b⟩ => some b
  | _ => none

/-- The six values in the response just returned, if it is a SNAP's. -/
def State.gotSnap (s : State) : Option (Vector Nat 6) :=
  match s.out.getLast? with
  | some ⟨_, .snap v⟩ => some v
  | _ => none

/-- The six values in the response just returned, if it is a TAKE's with `was_ready = 1`. With `was_ready = 0` "The host must ignore" them (R69). -/
def State.gotFrame (s : State) : Option (Vector Nat 6) :=
  match s.out.getLast? with
  | some ⟨_, .take true v⟩ => some v
  | _ => none

/-- The two ways to write the source's frame take (R73, R77): one TAKE, or the split sequence, with whatever runs in the two windows between its three transactions. -/
inductive TakeForm where
  | take
  | split (gap₁ gap₂ : List Instr)
deriving DecidableEq, Repr

/-- The order of the source's §4.2 step 2 in separate transactions, the second pair only if the first saw `READY` (R73 (a), R36). It answers the machine after it, and the values
that the host copied, if it copied any. `gap₁` and `gap₂` are whatever runs between the transactions. -/
def splitTake (gap₁ gap₂ : List Instr) (s : State) : Host.Outcome (State × Option (Vector Nat 6)) Fault Refusal :=
  andThen (exec .rdStatus s) fun s₁ =>
    match s₁.gotStatus with
    | none => .next (s₁, none)
    | some b =>
      if b.getLsbD 0 then
        andThen (runAll gap₁ s₁) fun s₂ =>
          andThen (exec .clrReady s₂) fun s₃ =>
            andThen (runAll gap₂ s₃) fun s₄ =>
              andThen (exec .snap s₄) fun s₅ => .next (s₅, s₅.gotSnap)
      else .next (s₁, none)

/-- The frame take of a cycle (R77), in either form: the machine after it, and the values of the frame, if one was ready. -/
def frameTake (form : TakeForm) (s : State) : Host.Outcome (State × Option (Vector Nat 6)) Fault Refusal :=
  match form with
  | .take => andThen (exec .take s) fun s₁ => .next (s₁, s₁.gotFrame)
  | .split gap₁ gap₂ => splitTake gap₁ gap₂ s

/-- One host cycle (R75): the machine, the host and what the host emits, after it. `now` is the time base read once at the start. `gap` is whatever runs between the read of
`LASTT` and the frame take: they are separate transactions, so edge events may fall there (R36). `form` is the form of the frame take (R77). The host reads the response just
returned; one of another kind never comes, and would leave the host's snapshot as it is (DESIGN CHOICE, log entry 17, safe). -/
def consumerCycle (h : HostParams) (now : Nat) (gap : List Instr) (form : TakeForm) (s : State) (c : Consumer) :
    Host.Outcome (State × Consumer × List HostOutput) Fault Refusal :=
  andThen (exec .rdLastt s) fun s₁ =>
    match s₁.gotLastt with
    | none => .next (s₁, c, [])
    | some lt =>
      if signalLost s.params h now lt then .next (s₁, c.forceSafe, [.lossNotice])
      else
        andThen (runAll gap s₁) fun s₂ =>
          andThen (frameTake form s₂) fun r =>
            .next (r.1, c.finish s.params h r.2, [(c.finish s.params h r.2).reportLine])

/-- After a cycle the host waits `POLL_DELAY` before the next (R75): the times at which consecutive cycles read `now`, apart by at least that (DESIGN CHOICE,
log entry 17, safe). -/
def spacedBy (p : Params) (h : HostParams) : List Nat → Prop
  | a :: b :: rest => h.pollDelay ≤ subW p b a ∧ spacedBy p h (b :: rest)
  | _ => True

end Sys2Proof.Machine
end

