-- ==== Sys2Proof/Machine/Environment.lean ====
section
/-! DEFINITION. What the environment may do: it orders the inputs as it likes, and it may have several ready at the same instant (20_memory.md R34; 60_exceptions.md R87;
70_reset_and_hazards.md R98). One run of the machine follows one order; these definitions say which orders there are (DESIGN CHOICE, log entry 9, safe). -/

namespace Sys2Proof.Machine

/-- The environment has more inputs ready, behind those it had. -/
def State.present (xs : List Input) (s : State) : State :=
  { s with inputs := s.inputs ++ xs }

/-- The inputs that are ready at one instant: at most one at each of the three ports (R40). -/
structure Instant where
  rst : Bool
  evt : Option Nat
  cmd : Option Byte
deriving DecidableEq, Repr

/-- The edge event of an instant, as a list of at most one input. -/
def Instant.edges (x : Instant) : List Input := x.evt.toList.map .evt

/-- The host transaction of an instant, as a list of at most one input. -/
def Instant.commands (x : Instant) : List Input := x.cmd.toList.map .cmd8

/-- The orders in which the inputs of one instant may take effect. Without a reset, an edge and a transaction go in either order (R34, R87 (b)). With one, the
reset has priority: any other input "either completes entirely before the `RESET` step or does not happen at all" (R98). -/
def Instant.orders (x : Instant) : List (List Input) :=
  if x.rst then
    [ [.rst],
      x.edges ++ [.rst],
      x.commands ++ [.rst],
      x.edges ++ x.commands ++ [.rst],
      x.commands ++ x.edges ++ [.rst] ]
  else
    [ x.edges ++ x.commands, x.commands ++ x.edges ]

/-- `xs` is an order of inputs that a sequence of instants admits. -/
inductive Admits : List Instant → List Input → Prop where
  | nil : Admits [] []
  | cons {x : Instant} {xs : List Instant} {o rest : List Input} : o ∈ x.orders → Admits xs rest → Admits (x :: xs) (o ++ rest)

end Sys2Proof.Machine
end

