-- ==== Sys2Proof/Safety.lean ====
section
/-! DEFINITION. What a safe state and a safe run of CORE are, in the terms that claims use; and what the past of a run determines, said without any state of CORE. -/

namespace Sys2Proof.Machine

/-- The invariants of R22, (I1) to (I4), with the ranges that the widths of R12 give, for parameters that meet R7. -/
structure State.Inv (s : State) : Prop where
  params_valid : s.params.valid = true
  ref_range    : s.core.ref < 2 ^ s.params.timeW
  lastt_range  : s.core.lastt < 2 ^ s.params.timeW
  idx_le       : s.core.idx.toNat ≤ 6
  idle_idx     : s.core.sync = false → s.core.idx = 0#3
  ready_sync   : s.core.ready = true → s.core.sync = true
  buf_range    : ∀ (i : Nat) (h : i < 6), s.core.buf[i] = 0 ∨ (s.params.clampLo ≤ s.core.buf[i] ∧ s.core.buf[i] ≤ s.params.clampHi)

/-- Every input that the environment has ready is one of CORE's formats (R40, R48). -/
def State.InputsFit (s : State) : Prop := ∀ x ∈ s.inputs, x.fits s.params = true

/-- The states that some environment can bring a CORE with parameters `p` to: from reset, inputs become ready in any order at any time, and the machine steps (R11, R34). -/
inductive Reachable (p : Params) : State → Prop where
  | reset : Reachable p (State.resetWith p)
  | present {s : State} (xs : List Input) : Reachable p s → Reachable p (s.present xs)
  | step {s s' : State} : Reachable p s → step s = .next s' → Reachable p s'

/-! ### The past of a run

A past is the list of instructions run so far, THE NEWEST FIRST. These functions read it directly, with no index, flag or buffer, as the rules describe what was
received: the pulses since the last sync gap, the newest capture at each index, the frames completed and not yet taken. -/

namespace Past

/-- The time of the newest edge event since reset, 0 if there is none (R13). -/
def lastEdge : List Instr → Nat
  | [] => 0
  | .edgeL t :: _ => t
  | .edgeH t :: _ => t
  | .reset :: _ => 0
  | _ :: past => lastEdge past

/-- The duration that an edge at `t` measures after this past: the time since the newest edge, modulo `2^TIME_W` (R52). -/
def duration (p : Params) (t : Nat) (past : List Instr) : Nat :=
  (t + 2 ^ p.timeW - lastEdge past) % 2 ^ p.timeW

/-- The widths of the LOW pulses since the newest sync gap, the newest first; `none` before the first sync gap (R55, R58, R62). -/
def pulses (p : Params) : List Instr → Option (List Nat)
  | [] => none
  | .edgeH t :: past =>
    if p.syncTh < duration p t past then some []
    else (pulses p past).map (duration p t past :: ·)
  | .reset :: _ => none
  | _ :: past => pulses p past

/-- This `EDGE.H` at `t` is captured at index `k`: it ends no sync gap, and it is pulse number `k` (from 0) since the newest one (R56). -/
def isCaptureAt (p : Params) (k : Nat) (t : Nat) (past : List Instr) : Prop :=
  ¬ p.syncTh < duration p t past ∧ k < 6 ∧ (pulses p past).map List.length = some k

/-- This `EDGE.H` at `t` completes a frame: it is the sixth capture after the newest sync gap (R57, R61 (P2)). -/
def completes (p : Params) (t : Nat) (past : List Instr) : Prop := isCaptureAt p 5 t past

/-- The value stored by the newest capture at index `k` since reset, or 0 if there is none (R72). -/
def newestAt (p : Params) (k : Nat) : List Instr → Nat
  | [] => 0
  | .edgeH t :: past =>
    if ¬ p.syncTh < duration p t past ∧ k < 6 ∧ (pulses p past).map List.length = some k then
      max p.clampLo (min p.clampHi (duration p t past))
    else newestAt p k past
  | .reset :: _ => 0
  | _ :: past => newestAt p k past

/-- The time of the newest completion since reset, or 0 if there is none (R18, R70). -/
def completedAt (p : Params) : List Instr → Nat
  | [] => 0
  | .edgeH t :: past =>
    if ¬ p.syncTh < duration p t past ∧ (pulses p past).map List.length = some 5 then t else completedAt p past
  | .reset :: _ => 0
  | _ :: past => completedAt p past

/-- A frame has completed and no CLR_READY, TAKE or RESET has come since (R16). -/
def untaken (p : Params) : List Instr → Bool
  | [] => false
  | .edgeH t :: past =>
    if ¬ p.syncTh < duration p t past ∧ (pulses p past).map List.length = some 5 then true else untaken p past
  | .clrReady :: _ => false
  | .take :: _ => false
  | .reset :: _ => false
  | _ :: past => untaken p past

/-- A machine whose fields are what this past determines (R13 to R18, R72). -/
structure Agrees (p : Params) (past : List Instr) (s : State) : Prop where
  params : s.params = p
  ref    : s.core.ref = lastEdge past
  sync   : s.core.sync = (pulses p past).isSome
  idx    : s.core.idx.toNat = min 6 ((pulses p past).getD []).length
  ready  : s.core.ready = untaken p past
  lastt  : s.core.lastt = completedAt p past
  buf    : ∀ k : Fin 6, s.core.buf[k] = newestAt p k past

/-- How many edge events in the past sampled HIGH. -/
def highEdges : List Instr → Nat
  | [] => 0
  | .edgeH _ :: past => highEdges past + 1
  | _ :: past => highEdges past

end Past

/-! ### Runs with a restricted set of inputs -/

/-- Every instruction is a host transaction (R40). -/
def OnlyCommands (is : List Instr) : Prop := ∀ i ∈ is, i.isCommand = true

/-- Two states of CORE that differ in the hidden `REF` alone (R13). -/
def SameButRef (a b : CoreState) : Prop :=
  a.sync = b.sync ∧ a.idx = b.idx ∧ a.ready = b.ready ∧ a.buf = b.buf ∧ a.lastt = b.lastt

/-- Nothing that samples HIGH and no reset: `EDGE.L` events and host transactions only, which may stand between two HIGH samples of a stream. -/
def OnlyLowsAndCommands (p : Params) (is : List Instr) : Prop :=
  ∀ i ∈ is, i.wellFormed p = true ∧ (i.isCommand = true ∨ ∃ t, i = .edgeL t)

/-- The time of the last `EDGE.L` of the sequence, or `ref` if there is none: what the next edge's duration is measured from (R51 to R53). -/
def lastLow : Nat → List Instr → Nat
  | ref, [] => ref
  | _, .edgeL t :: is => lastLow t is
  | ref, _ :: is => lastLow ref is

/-- No `EDGE.H` of the sequence measures more than `SYNC_TH`, each duration taken from the edge before it, the first from `ref` (R107). -/
def NoSyncGap (p : Params) : Nat → List Instr → Prop
  | _, [] => True
  | _, .edgeL t :: is => NoSyncGap p t is
  | ref, .edgeH t :: is => (t + 2 ^ p.timeW - ref) % 2 ^ p.timeW ≤ p.syncTh ∧ NoSyncGap p t is
  | _, .reset :: is => NoSyncGap p 0 is
  | ref, _ :: is => NoSyncGap p ref is

end Sys2Proof.Machine
end

