-- ==== Sys2Proof/Certificates/Slice0/Obligations.lean ====
section
/-! DEFINITION. The statements for the provers. They say what an instruction does in the spec's own formulas (a residue, a bound, a bit position), not through the model's
helper functions, wherever the rule gives a formula. -/

open Sys2Proof Sys2Proof.Machine

/-! ### Edge events -/

/-- R53: an edge event sampled LOW records its time and writes nothing else. -/
def Obligations.EdgeLowRecordsTimeOnly : Prop :=
  ∀ (t : Nat) (s : State), t < 2 ^ s.params.timeW →
    ∃ s', exec (.edgeL t) s = .next s' ∧
      s'.core.ref = t ∧
      s'.core.sync = s.core.sync ∧ s'.core.idx = s.core.idx ∧ s'.core.ready = s.core.ready ∧
      s'.core.buf = s.core.buf ∧ s'.core.lastt = s.core.lastt ∧
      s'.params = s.params ∧ s'.inputs = s.inputs ∧ s'.out = s.out

/-- R55: an edge event sampled HIGH whose duration exceeds SYNC_TH sets IDX to 0 and SYNC to 1, whatever they and READY were, and stores nothing. The duration is the residue
of R52. The comparison is strict: any other duration, SYNC_TH itself among them, leaves SYNC as it was and IDX as it was or one higher. -/
def Obligations.EdgeHighSyncGapRestartsFrame : Prop :=
  ∀ (t : Nat) (s : State) (d : Nat), t < 2 ^ s.params.timeW →
    (d : Int) = ((t : Int) - (s.core.ref : Int)) % (2 : Int) ^ s.params.timeW →
    ∃ s', exec (.edgeH t) s = .next s' ∧ s'.core.ref = t ∧
      (s.params.syncTh < d →
        s'.core.idx = 0#3 ∧ s'.core.sync = true ∧
        s'.core.ready = s.core.ready ∧ s'.core.buf = s.core.buf ∧ s'.core.lastt = s.core.lastt) ∧
      (d ≤ s.params.syncTh →
        s'.core.sync = s.core.sync ∧ (s'.core.idx = s.core.idx ∨ s'.core.idx.toNat = s.core.idx.toNat + 1)) ∧
      s'.params = s.params ∧ s'.inputs = s.inputs ∧ s'.out = s.out

/-- R54, R56, R57: an edge event sampled HIGH whose duration does not exceed SYNC_TH, in a state that captures, stores the clamped duration at the current index and
nowhere else, advances the index, and sets READY and LASTT exactly when this is the sixth. -/
def Obligations.EdgeHighCaptureStoresClampedWidth : Prop :=
  ∀ (t : Nat) (s : State) (d k : Nat), s.params.valid = true → t < 2 ^ s.params.timeW →
    (d : Int) = ((t : Int) - (s.core.ref : Int)) % (2 : Int) ^ s.params.timeW →
    d ≤ s.params.syncTh → s.core.sync = true → s.core.idx.toNat = k → (hk : k < 6) →
    ∃ s', exec (.edgeH t) s = .next s' ∧
      s'.core.ref = t ∧ s'.core.sync = true ∧ s'.core.idx.toNat = k + 1 ∧
      s'.core.buf[k] =
        (if d < s.params.pwMin - s.params.margin then s.params.pwMin - s.params.margin
         else if s.params.pwMax + s.params.margin < d then s.params.pwMax + s.params.margin
         else d) ∧
      (∀ (j : Nat) (hj : j < 6), j ≠ k → s'.core.buf[j] = s.core.buf[j]) ∧
      s'.core.ready = (if k = 5 then true else s.core.ready) ∧
      s'.core.lastt = (if k = 5 then t else s.core.lastt) ∧
      s'.params = s.params ∧ s'.inputs = s.inputs ∧ s'.out = s.out

/-- R57: READY is set and LASTT written by the capture that makes IDX equal to 6, and by no other edge event; IDX is not reset there, and a READY that is already 1 stays 1. -/
def Obligations.CompletionIsTheSixthCapture : Prop :=
  ∀ (t : Nat) (s : State) (d : Nat), t < 2 ^ s.params.timeW →
    (d : Int) = ((t : Int) - (s.core.ref : Int)) % (2 : Int) ^ s.params.timeW →
    ∃ s', exec (.edgeH t) s = .next s' ∧
      (d ≤ s.params.syncTh ∧ s.core.sync = true ∧ s.core.idx = 5#3 →
        s'.core.ready = true ∧ s'.readyO = true ∧ s'.core.lastt = t ∧ s'.core.idx = 6#3) ∧
      (¬ (d ≤ s.params.syncTh ∧ s.core.sync = true ∧ s.core.idx = 5#3) →
        s'.core.ready = s.core.ready ∧ s'.core.lastt = s.core.lastt)

/-- R58: an edge event sampled HIGH whose duration does not exceed SYNC_TH writes REF only, before the first sync gap and after the sixth capture. -/
def Obligations.EdgeHighIgnoredWritesReferenceOnly : Prop :=
  ∀ (t : Nat) (s : State) (d : Nat), t < 2 ^ s.params.timeW →
    (d : Int) = ((t : Int) - (s.core.ref : Int)) % (2 : Int) ^ s.params.timeW →
    d ≤ s.params.syncTh → (s.core.sync = false ∨ s.core.idx = 6#3) →
    ∃ s', exec (.edgeH t) s = .next s' ∧
      s'.core.ref = t ∧
      s'.core.sync = s.core.sync ∧ s'.core.idx = s.core.idx ∧ s'.core.ready = s.core.ready ∧
      s'.core.buf = s.core.buf ∧ s'.core.lastt = s.core.lastt ∧
      s'.params = s.params ∧ s'.inputs = s.inputs ∧ s'.out = s.out

/-- R60 (a), R101: for real tick counts `a ≤ b` of two events, the duration between the two time-base values is `b - a` modulo `2^TIME_W`, so it is `b - a` itself whenever that
is less than `2^TIME_W`, across a wrap too. -/
def Obligations.DurationCorrectAcrossWrap : Prop :=
  ∀ (p : Params) (a b : Nat), a ≤ b →
    subW p (b % 2 ^ p.timeW) (a % 2 ^ p.timeW) = (b - a) % 2 ^ p.timeW ∧
    (b - a < 2 ^ p.timeW → subW p (b % 2 ^ p.timeW) (a % 2 ^ p.timeW) = b - a)

/-- R59: the table of the decoder's state machine. Every edge event moves the phase as the table says, and makes exactly the table's other writes. The phase names are those
of R21: `Idle` is SYNC = 0, `Capturing(k)` is SYNC = 1 and IDX = k, `Done` is SYNC = 1 and IDX = 6. -/
def Obligations.DecoderFollowsTransitionTable : Prop :=
  ∀ (t : Nat) (s : State) (ph : Phase), s.Inv → t < 2 ^ s.params.timeW → s.core.phase = some ph →
    (∃ s', exec (.edgeL t) s = .next s' ∧ s'.core.phase = some ph ∧ s'.core = { s.core with ref := t }) ∧
    (∃ s', exec (.edgeH t) s = .next s' ∧ s'.core.ref = t ∧
      let d := (t + 2 ^ s.params.timeW - s.core.ref) % 2 ^ s.params.timeW
      (s.params.syncTh < d → s'.core.phase = some (.capturing 0) ∧
        s'.core.buf = s.core.buf ∧ s'.core.ready = s.core.ready ∧ s'.core.lastt = s.core.lastt) ∧
      (d ≤ s.params.syncTh → (ph = .idle ∨ ph = .done) → s'.core.phase = some ph ∧
        s'.core.buf = s.core.buf ∧ s'.core.ready = s.core.ready ∧ s'.core.lastt = s.core.lastt) ∧
      (∀ (k : Fin 6), d ≤ s.params.syncTh → ph = .capturing k →
        s'.core.phase = some (if h : k.val + 1 < 6 then .capturing ⟨k.val + 1, h⟩ else .done) ∧
        (∀ (j : Fin 6), j ≠ k → s'.core.buf[j] = s.core.buf[j]) ∧
        (s'.core.buf[k] = max s.params.clampLo (min s.params.clampHi d)) ∧
        s'.core.ready = (if k = 5 then true else s.core.ready) ∧
        s'.core.lastt = (if k = 5 then t else s.core.lastt)))

/-- The next-phase function that the model exports agrees with what an edge event sampled HIGH does to the phase, in every legal state. -/
def Obligations.PhaseFunctionAgreesWithMachine : Prop :=
  ∀ (t : Nat) (s : State) (ph : Phase), s.core.idx.toNat ≤ 6 → s.core.phase = some ph →
    ∃ s', exec (.edgeH t) s = .next s' ∧ s'.core.phase = some (ph.afterEdgeH s.params (subW s.params t s.core.ref))

/-- R57, R61 (P3), R105: seven HIGH samples, the first ending a sync gap and six that do not, load the whole buffer in index order, set READY and stamp LASTT with the last event's time,
whatever CORE's state was before, with READY set before as well. Before each of the seven any EDGE.L events and any host transactions may run: a duration is taken from the edge before
it, of either level, and every transaction is answered. -/
def Obligations.SyncGapAndSixPulsesAssembleFrame : Prop :=
  ∀ (s : State) (t d : Fin 7 → Nat) (gap : Fin 7 → List Instr), s.params.valid = true → (∀ i, t i < 2 ^ s.params.timeW) →
    (∀ i, OnlyLowsAndCommands s.params (gap i)) →
    (d 0 : Int) = ((t 0 : Int) - (lastLow s.core.ref (gap 0) : Int)) % (2 : Int) ^ s.params.timeW →
    (∀ i : Fin 6, (d i.succ : Int) = ((t i.succ : Int) - (lastLow (t i.castSucc) (gap i.succ) : Int)) % (2 : Int) ^ s.params.timeW) →
    s.params.syncTh < d 0 → (∀ i : Fin 6, d i.succ ≤ s.params.syncTh) →
    ∃ s' rs, runAll (List.ofFn fun i => gap i ++ [Instr.edgeH (t i)]).flatten s = .next s' ∧
      s'.core.sync = true ∧ s'.core.idx = 6#3 ∧ s'.core.ready = true ∧ s'.core.lastt = t 6 ∧ s'.core.ref = t 6 ∧
      (∀ i : Fin 6, s'.core.buf[i] = max s.params.clampLo (min s.params.clampHi (d i.succ))) ∧
      s'.out = s.out ++ rs ∧ rs.length = ((List.ofFn gap).flatten.filter Instr.isCommand).length

/-- R50: `PULSE tf, tr` in a capturing state stores the width `sub_W(tr, tf)`, clamped, where that width is not a sync gap. -/
def Obligations.PulseMeasuresItsWidth : Prop :=
  ∀ (s : State) (tf tr w k : Nat), s.params.valid = true → tf < 2 ^ s.params.timeW → tr < 2 ^ s.params.timeW →
    (w : Int) = ((tr : Int) - (tf : Int)) % (2 : Int) ^ s.params.timeW → w ≤ s.params.syncTh →
    s.core.sync = true → s.core.idx.toNat = k → (hk : k < 6) →
    ∃ s', runAll (AsmLine.expand (.pulse tf tr)) s = .next s' ∧ s'.core.ref = tr ∧ s'.core.idx.toNat = k + 1 ∧
      s'.core.buf[k] = max s.params.clampLo (min s.params.clampHi w)

/-- R108: the first edge after a reset measures the time-base value itself. A HIGH sample at `t > SYNC_TH` is taken as a sync gap, one at `t ≤ SYNC_TH` is ignored, and a LOW sample
records its time. -/
def Obligations.FirstEdgeAfterResetMeasuresItsTime : Prop :=
  ∀ (s : State) (t : Nat), t < 2 ^ s.params.timeW →
    (∃ s', runAll [.reset, .edgeH t] s = .next s' ∧
      (s.params.syncTh < t → s'.core = { CoreState.reset with ref := t, sync := true }) ∧
      (t ≤ s.params.syncTh → s'.core = { CoreState.reset with ref := t })) ∧
    (∃ s', runAll [.reset, .edgeL t] s = .next s' ∧ s'.core = { CoreState.reset with ref := t })

/-! ### Host transactions -/

/-- R66, with the packing of R23: RD_STATUS returns STATUS, `ok = 1`, and changes no state of CORE. The index 7 is never returned from a
state that has a legal index. -/
def Obligations.ReadStatusReturnsPackedControlState : Prop :=
  ∀ (s : State), ∃ s' b, exec .rdStatus s = .next s' ∧
    s'.out = s.out ++ [{ ok := true, payload := .status b }] ∧
    b.getLsbD 0 = s.core.ready ∧ b.getLsbD 1 = s.core.sync ∧ b.extractLsb' 2 3 = s.core.idx ∧ b.extractLsb' 5 3 = 0#3 ∧
    (s.core.idx.toNat ≤ 6 → b.extractLsb' 2 3 ≠ 7#3) ∧
    s'.core = s.core ∧ s'.params = s.params ∧ s'.inputs = s.inputs

/-- R67, with R24: CLR_READY clears READY, and `ready_o` falls with it; nothing else changes. -/
def Obligations.ClearReadyClearsOnlyReady : Prop :=
  ∀ (s : State), ∃ s', exec .clrReady s = .next s' ∧
    s'.core.ready = false ∧ s'.readyO = false ∧
    s'.out = s.out ++ [{ ok := true, payload := .empty }] ∧
    s'.core.ref = s.core.ref ∧ s'.core.sync = s.core.sync ∧ s'.core.idx = s.core.idx ∧ s'.core.buf = s.core.buf ∧
    s'.core.lastt = s.core.lastt ∧ s'.params = s.params ∧ s'.inputs = s.inputs

/-- R68: SNAP returns the six values of the one state it runs in, and changes no state of CORE. -/
def Obligations.SnapReturnsSixValuesOfOneState : Prop :=
  ∀ (s : State), ∃ s' v, exec .snap s = .next s' ∧
    s'.out = s.out ++ [{ ok := true, payload := .snap v }] ∧ (∀ i : Fin 6, v[i] = s.core.buf[i]) ∧
    s'.core = s.core ∧ s'.params = s.params ∧ s'.inputs = s.inputs

/-- R69, with R24: TAKE returns READY as it was and the six values, also when READY was 0, and clears READY, all in one step. A
second TAKE at once returns the same values with `was_ready = 0`. -/
def Obligations.TakeTestsClearsAndCopies : Prop :=
  ∀ (s : State), ∃ s' v, exec .take s = .next s' ∧
    s'.out = s.out ++ [{ ok := true, payload := .take s.core.ready v }] ∧ (∀ i : Fin 6, v[i] = s.core.buf[i]) ∧
    s'.core.ready = false ∧ s'.readyO = false ∧
    s'.core.ref = s.core.ref ∧ s'.core.sync = s.core.sync ∧ s'.core.idx = s.core.idx ∧ s'.core.buf = s.core.buf ∧
    s'.core.lastt = s.core.lastt ∧ s'.params = s.params ∧ s'.inputs = s.inputs ∧
    ∃ s'', exec .take s' = .next s'' ∧ s''.out = s'.out ++ [{ ok := true, payload := .take false v }]

/-- R70: RD_LASTT returns LASTT and changes no state of CORE; and in a run from reset in which no frame has completed, the result is 0. -/
def Obligations.ReadLastTimestampReturnsIt : Prop :=
  (∀ (s : State), ∃ s', exec .rdLastt s = .next s' ∧
    s'.out = s.out ++ [{ ok := true, payload := .lastt s.core.lastt }] ∧
    s'.core = s.core ∧ s'.params = s.params ∧ s'.inputs = s.inputs) ∧
  (∀ (p : Params) (past : List Instr) (s : State), p.valid = true → (∀ i ∈ past, i.wellFormed p = true) →
    (∀ newer t older, past = newer ++ Instr.edgeH t :: older → ¬ Past.completes p t older) →
    runAll past.reverse (State.resetWith p) = .next s →
    ∃ s', exec .rdLastt s = .next s' ∧ s'.out = s.out ++ [{ ok := true, payload := .lastt 0 }])

/-- R71: every reserved command word returns `ok = 0` with no payload and changes nothing. The seven constructors are the seven reserved rows of the opcode table. -/
def Obligations.ReservedWordAnswersNotOk : Prop :=
  ∀ (i : Instr) (s : State),
    (i = .reserved05 ∨ (∃ x, i = .reserved06 x) ∨ (∃ x, i = .reserved08 x) ∨ (∃ x, i = .reserved10 x) ∨
      (∃ x, i = .reserved20 x) ∨ (∃ x, i = .reserved40 x) ∨ (∃ x, i = .reserved80 x)) →
    exec i s = .next { s with out := s.out ++ [{ ok := false, payload := .empty }] }

/-- R71: every command word from `0x05` to `0xFF` decodes to such an instruction, and is answered so. -/
def Obligations.ReservedRangeAnswersNotOk : Prop :=
  ∀ (c : Byte) (s : State), 5 ≤ c.toNat →
    (decodeCmd c).isReserved = true ∧ exec (decodeCmd c) s = .next { s with out := s.out ++ [{ ok := false, payload := .empty }] }

/-- R46, R65: whatever command word the host sends next, the machine answers it in one step with exactly one response, `ok` is 1 exactly for a legal word, and of CORE's
state only READY may change, and only to 0. -/
def Obligations.EveryCommandWordIsAnsweredOnce : Prop :=
  ∀ (s : State) (c : Byte) (rest : List Input), s.params.valid = true → s.core.idx.toNat ≤ 6 → s.inputs = .cmd8 c :: rest →
    ∃ s' r, step s = .next s' ∧ s'.inputs = rest ∧ s'.out = s.out ++ [r] ∧
      (r.ok = true ↔ c.extractLsb' 4 4 = 0#4 ∧ (c.extractLsb' 0 4).toNat ≤ 4) ∧
      s'.core.ref = s.core.ref ∧ s'.core.sync = s.core.sync ∧ s'.core.idx = s.core.idx ∧ s'.core.buf = s.core.buf ∧
      s'.core.lastt = s.core.lastt ∧ (s'.core.ready = s.core.ready ∨ s'.core.ready = false)

/-- R32: RD_STATUS, SNAP and RD_LASTT change no state, and repeating one returns the same; CLR_READY writes READY alone and is idempotent; TAKE returns READY and clears it, so that a
second TAKE returns `was_ready = 0`; a reserved word changes no state. -/
def Obligations.RepeatedTransactions : Prop :=
  ∀ (s : State),
    (∀ i ∈ [Instr.rdStatus, Instr.snap, Instr.rdLastt], ∃ s' r, runAll [i, i] s = .next s' ∧ s'.core = s.core ∧ s'.out = s.out ++ [r, r]) ∧
    (∃ s₁ s₂, exec .clrReady s = .next s₁ ∧ s₁.core = { s.core with ready := false } ∧ exec .clrReady s₁ = .next s₂ ∧ s₂.core = s₁.core) ∧
    (∃ s' v, runAll [.take, .take] s = .next s' ∧
      s'.out = s.out ++ [{ ok := true, payload := .take s.core.ready v }, { ok := true, payload := .take false v }] ∧ s'.core.ready = false) ∧
    (∀ i : Instr, i.isReserved = true → ∃ s', exec i s = .next s' ∧ s'.core = s.core)

/-- R65: a sequence of host transactions, of any length and with any words, writes no field of CORE but READY, and never sets READY. -/
def Obligations.HostWritesOnlyReady : Prop :=
  ∀ (is : List Instr) (s : State), OnlyCommands is →
    ∃ s', runAll is s = .next s' ∧ s'.core = { s.core with ready := s'.core.ready } ∧ (s'.core.ready = true → s.core.ready = true) ∧
      s'.params = s.params ∧ ∃ rs, rs.length = is.length ∧ s'.out = s.out ++ rs

/-- R13: the host cannot read REF. Two machines whose cores differ in REF alone give the same responses to every sequence of transactions. -/
def Obligations.ReferenceTimeIsHiddenFromHost : Prop :=
  ∀ (is : List Instr) (s₁ s₂ s₁' s₂' : State), OnlyCommands is → SameButRef s₁.core s₂.core → s₁.out = s₂.out →
    runAll is s₁ = .next s₁' → runAll is s₂ = .next s₂' → s₁'.out = s₂'.out ∧ SameButRef s₁'.core s₂'.core

/-- R73: with no edge event between its transactions, the split sequence leaves CORE as one TAKE does and gives the host the same values; and where READY was 0 it ends after
RD_STATUS, CORE unchanged by either and the host given nothing. -/
def Obligations.SplitHandshakeEqualsTakeWithoutEdges : Prop :=
  ∀ (s : State), ∃ s₁ s₂ r, splitTake [] [] s = .next (s₁, r) ∧ frameTake .take s = .next (s₂, r) ∧ exec .take s = .next s₂ ∧
    s₁.core = s₂.core ∧
    (s.core.ready = true → r = some s.core.buf ∧ s₁.out.getLast? = some { ok := true, payload := .snap s.core.buf } ∧
      s₂.out.getLast? = some { ok := true, payload := .take true s.core.buf }) ∧
    (s.core.ready = false → r = none ∧ s₁.core = s.core ∧ s₂.core = s.core ∧
      s₂.out.getLast? = some { ok := true, payload := .take false s.core.buf })

/-- R106 (a), (b): whatever runs between RD_STATUS and CLR_READY has its READY cleared, and SNAP copies the values of that moment; whatever runs between CLR_READY and SNAP keeps
the READY it sets, though SNAP has copied its values. The host gets the values that SNAP returned. -/
def Obligations.SplitHandshakeRaceOutcomes : Prop :=
  ∀ (s s₁ s₂ s₃ : State) (gap₁ gap₂ : List Instr), s.core.ready = true →
    exec .rdStatus s = .next s₁ → runAll gap₁ s₁ = .next s₂ →
    runAll gap₂ { s₂ with core := { s₂.core with ready := false }, out := s₂.out ++ [{ ok := true, payload := .empty }] } = .next s₃ →
    ∃ s', splitTake gap₁ gap₂ s = .next (s', some s₃.core.buf) ∧ s'.core = s₃.core ∧
      s'.out = s₃.out ++ [{ ok := true, payload := .snap s₃.core.buf }] ∧ (gap₂ = [] → s'.core.ready = false)

/-- R104: after a completed frame, a sync gap and one capture of the next frame, a TAKE still finds READY set and returns one value of the new frame with five of the old. -/
def Obligations.LateTakeMixesTwoFrames : Prop :=
  ∀ (s : State) (t₀ t₁ : Nat), s.params.valid = true → s.core.ref ≤ t₀ → s.params.syncTh < t₀ - s.core.ref → t₀ ≤ t₁ →
    t₁ - t₀ ≤ s.params.syncTh → t₁ < 2 ^ s.params.timeW → s.core.ready = true →
    ∃ s' v, runAll [.edgeH t₀, .edgeH t₁, .take] s = .next s' ∧
      s'.out = s.out ++ [{ ok := true, payload := .take true v }] ∧
      v[0] = max s.params.clampLo (min s.params.clampHi (t₁ - t₀)) ∧
      (∀ i : Fin 6, i ≠ 0 → v[i] = s.core.buf[i])

/-- R46: in the packed layout, STATUS and LASTT stand whole, `v[i]` stands at bits `PW_W*i` and up of a SNAP and one bit higher in a TAKE, whose bit 0 is `was_ready`; and every
payload fits its width. -/
def Obligations.PackedPayloadLayout : Prop :=
  ∀ (p : Params) (v : Vector Nat 6) (w : Bool) (b : Byte) (t : Nat), (∀ i : Fin 6, v[i] < 2 ^ p.pwW) → t < 2 ^ p.timeW →
    (∀ i : Fin 6, (Payload.snap v).pack p / 2 ^ (p.pwW * i) % 2 ^ p.pwW = v[i]) ∧
    (∀ i : Fin 6, (Payload.take w v).pack p / 2 ^ (1 + p.pwW * i) % 2 ^ p.pwW = v[i]) ∧
    ((Payload.take w v).pack p % 2 = if w then 1 else 0) ∧
    ((Payload.status b).pack p = b.toNat) ∧ ((Payload.lastt t).pack p = t) ∧
    (∀ q ∈ [Payload.empty, .status b, .snap v, .take w v, .lastt t], q.pack p < 2 ^ q.width p)

/-! ### Reset -/

/-- R96: RESET sets every field of CORE to 0 in one step from every state, and `ready_o` with READY; power-up leaves the same. -/
def Obligations.ResetClearsEveryField : Prop :=
  ∀ (s : State), ∃ s', exec .reset s = .next s' ∧
    s'.core.ref = 0 ∧ s'.core.sync = false ∧ s'.core.idx = 0#3 ∧ s'.core.ready = false ∧
    (∀ i : Fin 6, s'.core.buf[i] = 0) ∧ s'.core.lastt = 0 ∧ s'.readyO = false ∧ s'.core = State.reset.core ∧
    s'.params = s.params ∧ s'.inputs = s.inputs ∧ s'.out = s.out

/-- The machine right after power-up has every field of CORE at the reset value of R12's table, every parameter of CORE at the Default column of R6 (the two clamp bounds that it
derives among them), no input ready and no response returned. That the parameters and the two lists stand in the state, and TICK as nanoseconds, is the model's choice (log entries
1 to 3, 19). -/
def Obligations.PowerUpState : Prop :=
  State.reset.core = { ref := 0, sync := false, idx := 0#3, ready := false, buf := #v[0, 0, 0, 0, 0, 0], lastt := 0 } ∧
  State.reset.core.phase = some .idle ∧ State.reset.inputs = [] ∧ State.reset.out = [] ∧
  State.reset.params =
    { timeW := 32, tickNs := 1000, syncTh := 5000, pwMin := 840, pwMid := 1250, pwMax := 1680, margin := 100, pwW := 16 } ∧
  nCh = 6 ∧ State.reset.params.clampLo = 740 ∧ State.reset.params.clampHi = 1780 ∧ State.reset.params.valid = true

/-- R98, R87 (d): whatever else is ready at the instant of a reset, in every order that the rule admits CORE ends in the reset state; and both outcomes are among the orders, the
other inputs completed before the reset and not taken at all. -/
def Obligations.ResetWinsOverSimultaneousInputs : Prop :=
  ∀ (s : State) (x : Instant), s.Inv → x.rst = true → (∀ w, x.evt = some w → w < 2 ^ (1 + s.params.timeW)) →
    (∀ o ∈ x.orders, ∃ s', stepN o.length { s with inputs := o } = .next s' ∧ s'.core = CoreState.reset ∧ s'.inputs = []) ∧
    [Input.rst] ∈ x.orders ∧ x.edges ++ x.commands ++ [.rst] ∈ x.orders ∧ x.commands ++ x.edges ++ [.rst] ∈ x.orders

/-- R97: in a run from reset, READY can be set only after a HIGH sample that ends a sync gap and then six HIGH samples that are captured. -/
def Obligations.FirstReadyNeedsSyncAndSixCaptures : Prop :=
  ∀ (p : Params) (past : List Instr) (s : State), p.valid = true → (∀ i ∈ past, i.wellFormed p = true) →
    runAll past.reverse (State.resetWith p) = .next s → s.core.ready = true →
    7 ≤ Past.highEdges past ∧
    ∃ newer t older l, past = newer ++ .edgeH t :: older ∧ Past.duration p t older ≤ p.syncTh ∧
      Past.pulses p older = some l ∧ l.length = 5

/-! ### Steps, order and the whole machine -/

/-- A step takes the next input, decodes it and runs it. That inputs stand in a queue is the model's choice (log entry 2). -/
def Obligations.StepRunsTheDecodedInput : Prop :=
  ∀ (s : State) (x : Input) (rest : List Input) (i : Instr), s.params.valid = true → s.core.idx.toNat ≤ 6 → s.inputs = x :: rest →
    decode s.params x = .ok i → step s = exec i { s with inputs := rest }

/-- With no input ready CORE waits. The form of waiting, a step that changes nothing, is the model's choice (log entry 2). -/
def Obligations.StepWaitsWithoutInput : Prop :=
  ∀ (s : State), s.params.valid = true → s.core.idx.toNat ≤ 6 → s.inputs = [] → step s = .next s

/-- Exactly when a step is refused, and by which name: a configuration that breaks R7, the unreachable index 7, a word too wide for format EVT (log entries 5, 6, 7). A step
never faults. -/
def Obligations.StepRefusesExactly : Prop :=
  ∀ (s : State),
    (step s = .refused .illegalParams ↔ s.params.valid = false) ∧
    (step s = .refused .idxSeven ↔ s.params.valid = true ∧ s.core.idx = 7#3) ∧
    (step s = .refused .evtTooWide ↔ s.params.valid = true ∧ s.core.idx ≠ 7#3 ∧
      ∃ w rest, s.inputs = .evt w :: rest ∧ 2 ^ (1 + s.params.timeW) ≤ w) ∧
    ((∃ s', step s = .next s') ∨ ∃ r, step s = .refused r ∧ r ∈ [.illegalParams, .idxSeven, .evtTooWide])

/-- R19, R14, R16: the writer table, over all instructions. What a field does over one instruction says which instruction it was. -/
def Obligations.EachFieldHasOnlyItsWriters : Prop :=
  ∀ (i : Instr) (s s' : State), exec i s = .next s' →
    (s'.core.ref ≠ s.core.ref → i = .reset ∨ ∃ t, i = .edgeL t ∨ i = .edgeH t) ∧
    (s.core.sync = false ∧ s'.core.sync = true → ∃ t, i = .edgeH t) ∧
    (s.core.sync = true ∧ s'.core.sync = false → i = .reset) ∧
    (s'.core.idx ≠ s.core.idx → i = .reset ∨ ∃ t, i = .edgeH t) ∧
    (s.core.ready = false ∧ s'.core.ready = true → ∃ t, i = .edgeH t) ∧
    (s.core.ready = true ∧ s'.core.ready = false → i = .clrReady ∨ i = .take ∨ i = .reset) ∧
    (s'.core.buf ≠ s.core.buf → i = .reset ∨ ∃ t, i = .edgeH t) ∧
    (s'.core.lastt ≠ s.core.lastt → i = .reset ∨ ∃ t, i = .edgeH t) ∧
    s'.params = s.params ∧ s'.inputs = s.inputs ∧ (i.isCommand = false → s'.out = s.out)

/-- R22 (I1) to (I4), with the register widths: the invariants hold at reset, for every legal choice of parameters. -/
def Obligations.InvariantsHoldAtReset : Prop :=
  ∀ (p : Params), p.valid = true → (State.resetWith p).Inv

/-- R22 (I1) to (I4), with the register widths: every step keeps the invariants, from every state that meets them. -/
def Obligations.EveryStepKeepsInvariants : Prop :=
  ∀ (s s' : State), s.Inv → step s = .next s' → s'.Inv

/-- R22 (I1) to (I4): every reachable state meets the invariants. -/
def Obligations.ReachableStatesMeetInvariants : Prop :=
  ∀ (p : Params) (s : State), p.valid = true → Reachable p s → s.params = p ∧ s.Inv

/-- R83: every input has a defined outcome and no step leaves CORE stuck. From every state that meets the invariants, with inputs of CORE's formats ready, the machine takes a
step to such a state again. -/
def Obligations.NoInputLeavesCoreStuck : Prop :=
  ∀ (s : State), s.Inv → s.InputsFit → ∃ s', step s = .next s' ∧ s'.Inv ∧ s'.InputsFit ∧ s'.inputs = s.inputs.tail

/-- R34: the inputs take effect one at a time in the order the environment chose, each step seeing the state that the ones before it left. -/
def Obligations.QueuedInputsRunInOrder : Prop :=
  ∀ (s : State) (is : List Instr), s.Inv → (∀ i ∈ is, i.wellFormed s.params = true) → s.inputs = is.map (encode s.params) →
    ∃ s', stepN is.length s = .next s' ∧ runAll is { s with inputs := [] } = .next s' ∧ s'.Inv

/-- R34, R64: every order of inputs, of any length, is admitted; and of an edge and a transaction ready at the same instant, both orders. -/
def Obligations.EveryInputOrderIsAdmitted : Prop :=
  (∀ xs : List Input, ∃ is : List Instant, Admits is xs) ∧
  (∀ (w : Nat) (c : Byte) (is : List Instant) (rest : List Input), Admits is rest →
    Admits ({ rst := false, evt := some w, cmd := some c } :: is) (.evt w :: .cmd8 c :: rest) ∧
    Admits ({ rst := false, evt := some w, cmd := some c } :: is) (.cmd8 c :: .evt w :: rest))

/-- What the past determines: after any run from reset, each field of CORE is what the rules say of the inputs received, read from the past alone. REF is the newest edge's time
(R13); SYNC says whether a sync gap has come (R14); IDX counts the pulses since the newest sync gap, at most six (R15, R55, R56, R58); READY says that a completed frame is untaken
(R16); LASTT is the newest completion's time (R18); and each element of BUF is the newest capture at its index, or 0 (R17, R72). -/
def Obligations.PastDeterminesEveryField : Prop :=
  ∀ (p : Params) (past : List Instr), p.valid = true → (∀ i ∈ past, i.wellFormed p = true) →
    ∃ s, runAll past.reverse (State.resetWith p) = .next s ∧
      s.core.ref = Past.lastEdge past ∧
      s.core.sync = (Past.pulses p past).isSome ∧
      s.core.idx.toNat = min 6 ((Past.pulses p past).getD []).length ∧
      s.core.ready = Past.untaken p past ∧
      s.core.lastt = Past.completedAt p past ∧
      (∀ k : Fin 6, s.core.buf[k] = Past.newestAt p k past)

/-- R61 (P2): an EDGE.H sets READY exactly when it is the sixth capture after the newest sync gap, in any run from reset. -/
def Obligations.ReadyRisesExactlyAtSixthCapture : Prop :=
  ∀ (p : Params) (past : List Instr) (t : Nat) (s : State), p.valid = true → (∀ i ∈ past, i.wellFormed p = true) → t < 2 ^ p.timeW →
    runAll past.reverse (State.resetWith p) = .next s → s.core.ready = false →
    ∃ s', exec (.edgeH t) s = .next s' ∧ (s'.core.ready = true ↔ Past.completes p t past)

/-- R22 (I5): at the end of the edge event that sets READY, each element of BUF holds a capture made after the newest sync gap, the six in the order received, and LASTT is that event's time. -/
def Obligations.CompletedFrameIsWholeAndStamped : Prop :=
  ∀ (p : Params) (past : List Instr) (t : Nat) (s s' : State), p.valid = true → (∀ i ∈ past, i.wellFormed p = true) → t < 2 ^ p.timeW →
    runAll past.reverse (State.resetWith p) = .next s → exec (.edgeH t) s = .next s' → Past.completes p t past →
    ∃ l, Past.pulses p (.edgeH t :: past) = some l ∧ l.length = 6 ∧ s'.core.ready = true ∧ s'.core.lastt = t ∧
      ∀ k : Fin 6, s'.core.buf[k] = max p.clampLo (min p.clampHi (l.reverse.getD k 0))

/-- R107, first hazard: once in Done with READY clear, a stream whose HIGH samples never measure more than SYNC_TH leaves CORE in Done and never sets READY again, whatever the host does
between. A reset is not part of such a stream. -/
def Obligations.NoSyncGapKeepsDecoderDone : Prop :=
  ∀ (is : List Instr) (s : State), s.core.sync = true → s.core.idx = 6#3 → s.core.ready = false →
    s.core.ref < 2 ^ s.params.timeW → (∀ i ∈ is, i.wellFormed s.params = true) → Instr.reset ∉ is → NoSyncGap s.params s.core.ref is →
    ∃ s', runAll is s = .next s' ∧ s'.core.phase = some .done ∧ s'.core.ready = false ∧ s'.core.buf = s.core.buf ∧ s'.core.lastt = s.core.lastt

/-! ### Encoding -/

/-- R41 to R44: decoding the encoding of a well-formed instruction gives it back, with every operand at every value, for every legal width; and the encoding fits its format. -/
def Obligations.DecodeInvertsEncode : Prop :=
  ∀ (p : Params) (i : Instr), i.wellFormed p = true → decode p (encode p i) = .ok i ∧ (encode p i).fits p = true

/-- R47: no input has two meanings. What an input decodes to is well formed and encodes to that input alone; and an input decodes exactly when it fits its format. -/
def Obligations.EncodeInvertsDecode : Prop :=
  ∀ (p : Params) (x : Input),
    (∀ i, decode p x = .ok i → i.wellFormed p = true ∧ encode p i = x) ∧ (x.fits p = true ↔ ∃ i, decode p x = .ok i)

/-- R43: the command-code map. A word is legal exactly when `c[7:4] = 0` and `c[3:0]` is one of the five codes, and these have the meanings of the table. -/
def Obligations.CommandCodeMap : Prop :=
  (∀ c : Byte, (decodeCmd c).isReserved = false ↔ c.extractLsb' 4 4 = 0#4 ∧ (c.extractLsb' 0 4).toNat ≤ 4) ∧
  decodeCmd 0x00#8 = .rdStatus ∧ decodeCmd 0x01#8 = .clrReady ∧ decodeCmd 0x02#8 = .snap ∧ decodeCmd 0x03#8 = .take ∧
  decodeCmd 0x04#8 = .rdLastt ∧ (∀ c : Byte, (decodeCmd c).isCommand = true)

/-- R47: there are 251 reserved command words. -/
def Obligations.ReservedWordCount : Prop :=
  ((List.range 256).filter fun n => (decodeCmd (BitVec.ofNat 8 n)).isReserved).length = 251

/-- Words written out from the encodings of R41, R43 and the opcode table decode to the instructions they stand for. -/
def Obligations.SampleWordsDecode : Prop :=
  decode Params.default (.evt 0x0000003E8) = .ok (.edgeL 1000) ∧
  decode Params.default (.evt 0x100001F40) = .ok (.edgeH 8000) ∧
  decode Params.default (.evt 0x1FFFFFFFF) = .ok (.edgeH 0xFFFFFFFF) ∧
  decode Params.default (.cmd8 0x03#8) = .ok .take ∧
  decode Params.default (.cmd8 0x13#8) = .ok (.reserved10 3#4) ∧
  decode Params.default (.cmd8 0xFF#8) = .ok (.reserved80 0x7F#7) ∧
  decode Params.default .rst = .ok .reset

/-! ### The reference host -/

/-- R79, R81 (Q2): the buttons. Below BTN_LO the top one, above BTN_HI the bottom one, between the two neither, and never both. -/
def Obligations.ButtonPairIsExclusive : Prop :=
  ∀ (p : Params) (h : HostParams) (r : Nat), h.valid p = true →
    (buttonTop h r = true ↔ r < h.btnLo) ∧ (buttonBot h r = true ↔ h.btnHi < r) ∧ ¬ (buttonTop h r = true ∧ buttonBot h r = true)

/-- R78, R81 (Q1): the stick mapping sends the minimum, the midpoint and the maximum to -100, 0 and 100 (the ends where DEADZONE < 100). Every value is the piecewise-linear one of R78's
formula, under both arithmetics, clamped to `[-100, 100]` where its magnitude exceeds the deadzone, and 0 where it does not. -/
def Obligations.StickMappingEndpointsAndRange : Prop :=
  ∀ (p : Params) (h : HostParams) (r : Nat), p.valid = true → h.valid p = true →
    (h.mapArith = .exact → stickLin p h.mapArith r =
      if r ≤ p.pwMid then ((r : Rat) - p.pwMin) * 100 / (p.pwMid - p.pwMin) - 100 else ((r : Rat) - p.pwMid) * 100 / (p.pwMax - p.pwMid)) ∧
    (h.mapArith = .trunc → stickLin p h.mapArith r =
      if r ≤ p.pwMid then (((((r : Int) - p.pwMin) * 100).tdiv ((p.pwMid : Int) - p.pwMin) - 100 : Int) : Rat)
      else (((((r : Int) - p.pwMid) * 100).tdiv ((p.pwMax : Int) - p.pwMid) : Int) : Rat)) ∧
    (h.deadzone < |max (-100) (min 100 (stickLin p h.mapArith r))| → stickMap p h r = max (-100) (min 100 (stickLin p h.mapArith r))) ∧
    (|max (-100) (min 100 (stickLin p h.mapArith r))| ≤ h.deadzone → stickMap p h r = 0) ∧
    stickMap p h p.pwMid = 0 ∧ stickLin p h.mapArith p.pwMin = -100 ∧ stickLin p h.mapArith p.pwMax = 100 ∧
    (h.deadzone < 100 → stickMap p h p.pwMin = -100 ∧ stickMap p h p.pwMax = 100) ∧
    -100 ≤ stickMap p h r ∧ stickMap p h r ≤ 100 ∧
    (stickMap p h r ≠ 0 → h.deadzone < |stickMap p h r|)

/-- R76, R81 (Q3): a host cycle that finds the last frame older than TIMEOUT forces the safe state, emits the loss notice, takes nothing in either form, and leaves CORE as it was. -/
def Obligations.LostSignalForcesSafeState : Prop :=
  ∀ (h : HostParams) (now : Nat) (gap : List Instr) (form : TakeForm) (s : State) (c : Consumer),
    (h.timeout : Int) < ((now : Int) - (s.core.lastt : Int)) % (2 : Int) ^ s.params.timeW →
    ∃ s', consumerCycle h now gap form s c =
        .next (s', { snapv := c.snapv, stick := #v[0, 0, 0, 0], top := #v[false, false], bot := #v[false, false], lost := true }, [.lossNotice]) ∧
      s'.core = s.core

/-- R75, R77, R81 (Q4): a host cycle that finds a recent frame takes the frame if one is ready and keeps its snapshot if not, clears READY, and reports; recovery from a loss needs nothing more. Edge events may run between
its two transactions, and the frame taken is the one after them. That the report gives the raw values in ticks, as the snapshot holds them, at every TICK is the model's choice (log entry 21). -/
def Obligations.FreshSignalIsTakenAndReported : Prop :=
  ∀ (h : HostParams) (now : Nat) (gap : List Instr) (s s₁ s₂ : State) (c : Consumer),
    ((now : Int) - (s.core.lastt : Int)) % (2 : Int) ^ s.params.timeW ≤ (h.timeout : Int) →
    exec .rdLastt s = .next s₁ → runAll gap s₁ = .next s₂ →
    ∃ s' c', consumerCycle h now gap .take s c =
        .next (s', c', [.report #v[c'.snapv[0], c'.snapv[1], c'.snapv[2], c'.snapv[3]] c'.stick c'.top c'.bot]) ∧
      s'.core = { s₂.core with ready := false } ∧ c'.lost = false ∧
      c'.snapv = (if s₂.core.ready then s₂.core.buf else c.snapv) ∧
      (∀ k : Fin 4, c'.stick[k] = stickMap s.params h (c'.snapv[k.val]'(by omega))) ∧
      (∀ j : Fin 2, c'.top[j] = buttonTop h (c'.snapv[4 + j.val]'(by omega)) ∧ c'.bot[j] = buttonBot h (c'.snapv[4 + j.val]'(by omega)))

/-- R77, R73 (a): the same cycle with the split sequence. If RD_STATUS sees READY, the host's snapshot becomes the six values that SNAP copies after the two windows; if not, the host
keeps its snapshot and CLR_READY and SNAP are not issued. The rest of the cycle uses the snapshot. That the report gives the raw values in ticks, as the snapshot holds them, at every
TICK is the model's choice (log entry 21). -/
def Obligations.SplitFormCycleUsesTheCopiedFrame : Prop :=
  ∀ (h : HostParams) (now : Nat) (gap gap₁ gap₂ : List Instr) (s s₁ s₂ s₃ s₄ s₅ s₆ : State) (c : Consumer),
    ((now : Int) - (s.core.lastt : Int)) % (2 : Int) ^ s.params.timeW ≤ (h.timeout : Int) →
    exec .rdLastt s = .next s₁ → runAll gap s₁ = .next s₂ → exec .rdStatus s₂ = .next s₃ → runAll gap₁ s₃ = .next s₄ →
    exec .clrReady s₄ = .next s₅ → runAll gap₂ s₅ = .next s₆ →
    ∃ s' c', consumerCycle h now gap (.split gap₁ gap₂) s c =
        .next (s', c', [.report #v[c'.snapv[0], c'.snapv[1], c'.snapv[2], c'.snapv[3]] c'.stick c'.top c'.bot]) ∧
      s'.core = (if s₂.core.ready then s₆.core else s₂.core) ∧ c'.lost = false ∧
      c'.snapv = (if s₂.core.ready then s₆.core.buf else c.snapv) ∧
      (∀ k : Fin 4, c'.stick[k] = stickMap s.params h (c'.snapv[k.val]'(by omega))) ∧
      (∀ j : Fin 2, c'.top[j] = buttonTop h (c'.snapv[4 + j.val]'(by omega)) ∧ c'.bot[j] = buttonBot h (c'.snapv[4 + j.val]'(by omega)))

/-- R77, R73: with nothing between the transactions of the split sequence, a cycle of either form ends with the same host, the same output and the same state of CORE, whatever ran
between the read of LASTT and the frame take. -/
def Obligations.SplitFormCycleEqualsTakeFormCycle : Prop :=
  ∀ (h : HostParams) (now : Nat) (gap : List Instr) (s : State) (c : Consumer),
    ∃ s₁ s₂ c' o, consumerCycle h now gap (.split [] []) s c = .next (s₁, c', o) ∧
      consumerCycle h now gap .take s c = .next (s₂, c', o) ∧ s₁.core = s₂.core

/-- R74: after any host cycle, of either form, on any data, the sticks lie in `[-100, 100]`, and under TRUNC they are integers. That they may be fractions under EXACT is the model's reading
(log entry 16). -/
def Obligations.HostCycleKeepsSticksInRange : Prop :=
  ∀ (h : HostParams) (now : Nat) (gap : List Instr) (form : TakeForm) (s s' : State) (c c' : Consumer) (o : List HostOutput),
    consumerCycle h now gap form s c = .next (s', c', o) →
    (∀ k : Fin 4, -100 ≤ c'.stick[k] ∧ c'.stick[k] ≤ 100) ∧ (h.mapArith = .trunc → ∀ k : Fin 4, ∃ n : Int, c'.stick[k] = n)

/-! ### The machine and its past, step by step -/

/-- The step behind PastDeterminesEveryField: from every past and every state whose fields are what the past determines, running one more instruction completes in a state whose fields are what the longer past
determines; and the reset state is what the empty past determines (R13 to R18, R55 to R58, R72, R96). -/
def Obligations.EveryInstructionKeepsAgreementWithPast : Prop :=
  (∀ p : Params, Past.Agrees p [] (State.resetWith p)) ∧
  (∀ (p : Params) (past : List Instr) (i : Instr) (s : State), p.valid = true → (∀ j ∈ past, j.wellFormed p = true) →
    i.wellFormed p = true → Past.Agrees p past s → ∃ s', exec i s = .next s' ∧ Past.Agrees p (i :: past) s')
end

