-- ==== Sys2Proof/Laws/Flags.lean ====
section
/-! SUPPORT. Where each field stands in STATUS (R23), and what the phase of R21 says of (`SYNC`, `IDX`). -/

namespace Sys2Proof.Machine

/-- The packing of STATUS, field by field (R23). -/
theorem statusWord_fields (c : CoreState) :
    (statusWord c).getLsbD 0 = c.ready ∧ (statusWord c).getLsbD 1 = c.sync ∧
    (statusWord c).extractLsb' 2 3 = c.idx ∧ (statusWord c).extractLsb' 5 3 = 0#3 := by
  have h : ∀ (i : BitVec 3) (a b : Bool),
      (0b000#3 ++ i ++ BitVec.ofBool a ++ BitVec.ofBool b : Byte).getLsbD 0 = b ∧
      (0b000#3 ++ i ++ BitVec.ofBool a ++ BitVec.ofBool b : Byte).getLsbD 1 = a ∧
      (0b000#3 ++ i ++ BitVec.ofBool a ++ BitVec.ofBool b : Byte).extractLsb' 2 3 = i ∧
      (0b000#3 ++ i ++ BitVec.ofBool a ++ BitVec.ofBool b : Byte).extractLsb' 5 3 = 0#3 := by decide
  exact h c.idx c.sync c.ready

theorem phase_idle_iff {c : CoreState} : c.phase = some .idle ↔ c.sync = false := by
  unfold CoreState.phase
  split
  · simp_all
  · split
    · simp_all
    · split <;> simp_all

theorem phase_capturing_iff {c : CoreState} {k : Fin 6} :
    c.phase = some (.capturing k) ↔ c.sync = true ∧ c.idx.toNat = k.val := by
  unfold CoreState.phase
  split
  · simp_all
  · split
    · simp_all [Fin.ext_iff]
    · have := k.isLt
      split <;> simp_all <;> omega

theorem phase_done_iff {c : CoreState} : c.phase = some .done ↔ c.sync = true ∧ c.idx.toNat = 6 := by
  unfold CoreState.phase
  split
  · simp_all
  · split
    · simp_all; omega
    · split <;> simp_all

end Sys2Proof.Machine
end

