-- ==== Sys2Proof/Laws/Operands.lean ====
section
/-! SUPPORT. What the arithmetic of CORE can answer: ranges, and the exact value where no wrap or clamp comes in (R60). -/

namespace Sys2Proof.Machine

/-- R7, clause by clause. -/
theorem valid_iff {p : Params} :
    p.valid = true ↔ p.margin ≤ p.pwMin ∧ p.clampLo ≤ p.clampHi ∧ p.clampHi < 2 ^ p.pwW ∧ 0 < p.syncTh ∧ p.syncTh < 2 ^ p.timeW ∧
      p.pwMin < p.pwMid ∧ p.pwMid < p.pwMax := by
  simp [Params.valid, and_assoc]

theorem timeVal_lt (p : Params) (t : Nat) : timeVal p t < 2 ^ p.timeW :=
  Nat.mod_lt _ (Nat.two_pow_pos _)

theorem timeVal_of_lt {p : Params} {t : Nat} (h : t < 2 ^ p.timeW) : timeVal p t = t :=
  Nat.mod_eq_of_lt h

/-- `sub_W` over the integers: it is the residue itself. -/
theorem subW_cast (p : Params) (a b : Nat) : ((subW p a b : Nat) : Int) = ((a : Int) - (b : Int)) % ((2 ^ p.timeW : Nat) : Int) := by
  have hpos : (0 : Int) < ((2 ^ p.timeW : Nat) : Int) := by exact_mod_cast Nat.two_pow_pos p.timeW
  exact Int.toNat_of_nonneg (Int.emod_nonneg _ hpos.ne')

theorem subW_lt (p : Params) (a b : Nat) : subW p a b < 2 ^ p.timeW := by
  have hpos : (0 : Int) < ((2 ^ p.timeW : Nat) : Int) := by exact_mod_cast Nat.two_pow_pos p.timeW
  have := Int.emod_lt_of_pos ((a : Int) - (b : Int)) hpos
  rw [← subW_cast] at this
  exact_mod_cast this

/-- `sub_W` of a TIME_W-bit subtrahend, over the natural numbers. -/
theorem subW_eq_mod {p : Params} {a b : Nat} (hb : b ≤ 2 ^ p.timeW) :
    subW p a b = (a + 2 ^ p.timeW - b) % 2 ^ p.timeW := by
  have h : ((subW p a b : Nat) : Int) = (((a + 2 ^ p.timeW - b) % 2 ^ p.timeW : Nat) : Int) := by
    rw [subW_cast, Int.natCast_emod, Nat.cast_sub (by omega), Nat.cast_add]
    rw [show ((a : Int) + ((2 ^ p.timeW : Nat) : Int) - (b : Int)) = ((a : Int) - (b : Int)) + ((2 ^ p.timeW : Nat) : Int) by ring]
    exact (Int.add_emod_right _ _).symm
  exact_mod_cast h

theorem clamp_ge {v lo hi : Nat} (h : lo ≤ hi) : lo ≤ clamp v lo hi := by
  unfold clamp; split <;> [skip; split] <;> omega

theorem clamp_le {v lo hi : Nat} (h : lo ≤ hi) : clamp v lo hi ≤ hi := by
  unfold clamp; split <;> [skip; split] <;> omega

/-- The store never truncates (R60 (c)). -/
theorem channelVal_eq_clamp {p : Params} (hp : p.valid = true) (d : Nat) : channelVal p d = clamp d p.clampLo p.clampHi :=
  Nat.mod_eq_of_lt (lt_of_le_of_lt (clamp_le (valid_iff.1 hp).2.1) (valid_iff.1 hp).2.2.1)

theorem channelVal_range {p : Params} (hp : p.valid = true) (d : Nat) : p.clampLo ≤ channelVal p d ∧ channelVal p d ≤ p.clampHi := by
  rw [channelVal_eq_clamp hp]
  exact ⟨clamp_ge (valid_iff.1 hp).2.1, clamp_le (valid_iff.1 hp).2.1⟩

theorem isSyncGap_iff {p : Params} {d : Nat} : isSyncGap p d = true ↔ p.syncTh < d := by
  simp [isSyncGap]

end Sys2Proof.Machine
end

