-- ==== Sys2Proof/Laws/State.lean ====
section
/-! SUPPORT. What each update of the state does to each field, field by field, so that no later proof unfolds an update. -/

namespace Sys2Proof.Machine

@[simp] theorem State.setCore_params (c : CoreState) (s : State) : (s.setCore c).params = s.params := (rfl)
@[simp] theorem State.setCore_core (c : CoreState) (s : State) : (s.setCore c).core = c := (rfl)
@[simp] theorem State.setCore_inputs (c : CoreState) (s : State) : (s.setCore c).inputs = s.inputs := (rfl)
@[simp] theorem State.setCore_out (c : CoreState) (s : State) : (s.setCore c).out = s.out := (rfl)

@[simp] theorem State.respond_params (r : Response) (s : State) : (s.respond r).params = s.params := (rfl)
@[simp] theorem State.respond_core (r : Response) (s : State) : (s.respond r).core = s.core := (rfl)
@[simp] theorem State.respond_inputs (r : Response) (s : State) : (s.respond r).inputs = s.inputs := (rfl)
@[simp] theorem State.respond_out (r : Response) (s : State) : (s.respond r).out = s.out ++ [r] := (rfl)

@[simp] theorem State.respondReserved_params (s : State) : s.respondReserved.params = s.params := (rfl)
@[simp] theorem State.respondReserved_core (s : State) : s.respondReserved.core = s.core := (rfl)
@[simp] theorem State.respondReserved_inputs (s : State) : s.respondReserved.inputs = s.inputs := (rfl)
@[simp] theorem State.respondReserved_out (s : State) : s.respondReserved.out = s.out ++ [{ ok := false, payload := .empty }] := (rfl)

@[simp] theorem State.resetWith_params (p : Params) : (State.resetWith p).params = p := (rfl)
@[simp] theorem State.resetWith_core (p : Params) : (State.resetWith p).core = CoreState.reset := (rfl)
@[simp] theorem State.resetWith_inputs (p : Params) : (State.resetWith p).inputs = [] := (rfl)
@[simp] theorem State.resetWith_out (p : Params) : (State.resetWith p).out = [] := (rfl)

@[simp] theorem CoreState.recordTime_ref (p : Params) (t : Nat) (c : CoreState) : (c.recordTime p t).ref = timeVal p t := (rfl)
@[simp] theorem CoreState.recordTime_sync (p : Params) (t : Nat) (c : CoreState) : (c.recordTime p t).sync = c.sync := (rfl)
@[simp] theorem CoreState.recordTime_idx (p : Params) (t : Nat) (c : CoreState) : (c.recordTime p t).idx = c.idx := (rfl)
@[simp] theorem CoreState.recordTime_ready (p : Params) (t : Nat) (c : CoreState) : (c.recordTime p t).ready = c.ready := (rfl)
@[simp] theorem CoreState.recordTime_buf (p : Params) (t : Nat) (c : CoreState) : (c.recordTime p t).buf = c.buf := (rfl)
@[simp] theorem CoreState.recordTime_lastt (p : Params) (t : Nat) (c : CoreState) : (c.recordTime p t).lastt = c.lastt := (rfl)

@[simp] theorem CoreState.acquireSync_ref (c : CoreState) : c.acquireSync.ref = c.ref := (rfl)
@[simp] theorem CoreState.acquireSync_sync (c : CoreState) : c.acquireSync.sync = true := (rfl)
@[simp] theorem CoreState.acquireSync_idx (c : CoreState) : c.acquireSync.idx = 0#3 := (rfl)
@[simp] theorem CoreState.acquireSync_ready (c : CoreState) : c.acquireSync.ready = c.ready := (rfl)
@[simp] theorem CoreState.acquireSync_buf (c : CoreState) : c.acquireSync.buf = c.buf := (rfl)
@[simp] theorem CoreState.acquireSync_lastt (c : CoreState) : c.acquireSync.lastt = c.lastt := (rfl)

@[simp] theorem CoreState.storeChannel_ref (p : Params) (d : Nat) (c : CoreState) : (c.storeChannel p d).ref = c.ref := (rfl)
@[simp] theorem CoreState.storeChannel_sync (p : Params) (d : Nat) (c : CoreState) : (c.storeChannel p d).sync = c.sync := (rfl)
@[simp] theorem CoreState.storeChannel_idx (p : Params) (d : Nat) (c : CoreState) : (c.storeChannel p d).idx = c.idx + 1#3 := (rfl)
@[simp] theorem CoreState.storeChannel_ready (p : Params) (d : Nat) (c : CoreState) : (c.storeChannel p d).ready = c.ready := (rfl)
@[simp] theorem CoreState.storeChannel_buf (p : Params) (d : Nat) (c : CoreState) : (c.storeChannel p d).buf = c.buf.setIfInBounds c.idx.toNat (channelVal p d) := (rfl)
@[simp] theorem CoreState.storeChannel_lastt (p : Params) (d : Nat) (c : CoreState) : (c.storeChannel p d).lastt = c.lastt := (rfl)

@[simp] theorem CoreState.completeFrame_ref (p : Params) (t : Nat) (c : CoreState) : (c.completeFrame p t).ref = c.ref := (rfl)
@[simp] theorem CoreState.completeFrame_sync (p : Params) (t : Nat) (c : CoreState) : (c.completeFrame p t).sync = c.sync := (rfl)
@[simp] theorem CoreState.completeFrame_idx (p : Params) (t : Nat) (c : CoreState) : (c.completeFrame p t).idx = c.idx := (rfl)
@[simp] theorem CoreState.completeFrame_ready (p : Params) (t : Nat) (c : CoreState) : (c.completeFrame p t).ready = true := (rfl)
@[simp] theorem CoreState.completeFrame_buf (p : Params) (t : Nat) (c : CoreState) : (c.completeFrame p t).buf = c.buf := (rfl)
@[simp] theorem CoreState.completeFrame_lastt (p : Params) (t : Nat) (c : CoreState) : (c.completeFrame p t).lastt = timeVal p t := (rfl)

@[simp] theorem CoreState.clearReady_ref (c : CoreState) : c.clearReady.ref = c.ref := (rfl)
@[simp] theorem CoreState.clearReady_sync (c : CoreState) : c.clearReady.sync = c.sync := (rfl)
@[simp] theorem CoreState.clearReady_idx (c : CoreState) : c.clearReady.idx = c.idx := (rfl)
@[simp] theorem CoreState.clearReady_ready (c : CoreState) : c.clearReady.ready = false := (rfl)
@[simp] theorem CoreState.clearReady_buf (c : CoreState) : c.clearReady.buf = c.buf := (rfl)
@[simp] theorem CoreState.clearReady_lastt (c : CoreState) : c.clearReady.lastt = c.lastt := (rfl)

@[simp] theorem CoreState.reset_ref : CoreState.reset.ref = 0 := (rfl)
@[simp] theorem CoreState.reset_sync : CoreState.reset.sync = false := (rfl)
@[simp] theorem CoreState.reset_idx : CoreState.reset.idx = 0#3 := (rfl)
@[simp] theorem CoreState.reset_ready : CoreState.reset.ready = false := (rfl)
@[simp] theorem CoreState.reset_buf : CoreState.reset.buf = #v[0, 0, 0, 0, 0, 0] := (rfl)
@[simp] theorem CoreState.reset_lastt : CoreState.reset.lastt = 0 := (rfl)

end Sys2Proof.Machine
end

