-- ==== Sys2Proof/Laws/Ops.lean ====
section
/-! SUPPORT. What each shared operation of Machine/Ops.lean can do, said once. -/

namespace Sys2Proof.Machine

theorem canCapture_iff {c : CoreState} : c.canCapture = true ↔ c.sync = true ∧ c.idx.toNat < 6 := by
  simp [CoreState.canCapture, nCh]

theorem isLastChannel_iff {c : CoreState} : c.isLastChannel = true ↔ c.idx.toNat = 5 := by
  simp [CoreState.isLastChannel, nCh]

theorem idxLegal_iff {c : CoreState} : c.idxLegal = true ↔ c.idx.toNat ≤ 6 := by
  simp [CoreState.idxLegal, nCh]

/-- The index counts up without overflow where a capture may run (R60 (d)). -/
theorem idx_succ_toNat {x : BitVec 3} (h : x.toNat < 6) : (x + 1#3).toNat = x.toNat + 1 := by
  rw [BitVec.toNat_add]; simp; omega

/-- A branch of `EDGE.H` is one of the three of R54, or the capture that completes the frame. -/
theorem edgeHBranch_cases (p : Params) (t d : Nat) (c : CoreState) :
    (p.syncTh < d ∧ c.edgeHBranch p t d = c.acquireSync) ∨
    (d ≤ p.syncTh ∧ c.sync = true ∧ c.idx.toNat < 5 ∧ c.edgeHBranch p t d = c.storeChannel p d) ∨
    (d ≤ p.syncTh ∧ c.sync = true ∧ c.idx.toNat = 5 ∧ c.edgeHBranch p t d = (c.storeChannel p d).completeFrame p t) ∨
    (d ≤ p.syncTh ∧ (c.sync = false ∨ 6 ≤ c.idx.toNat) ∧ c.edgeHBranch p t d = c) := by
  by_cases hd : p.syncTh < d
  · exact .inl ⟨hd, by simp [CoreState.edgeHBranch, isSyncGap_iff, hd]⟩
  · by_cases hc : c.canCapture = true
    · obtain ⟨hs, hi⟩ := canCapture_iff.1 hc
      by_cases hl : c.idx.toNat = 5
      · refine .inr (.inr (.inl ⟨by omega, hs, hl, ?_⟩))
        simp [CoreState.edgeHBranch, CoreState.capture, isSyncGap_iff, isLastChannel_iff, hd, hc, hl]
      · refine .inr (.inl ⟨by omega, hs, by omega, ?_⟩)
        simp [CoreState.edgeHBranch, CoreState.capture, isSyncGap_iff, isLastChannel_iff, hd, hc, hl]
    · refine .inr (.inr (.inr ⟨by omega, ?_, by simp [CoreState.edgeHBranch, isSyncGap_iff, hd, hc]⟩))
      by_cases hs : c.sync = true
      · exact .inr (by by_contra h; exact hc (canCapture_iff.2 ⟨hs, by omega⟩))
      · exact .inl (by simpa using hs)

/-- The element that a capture writes, and the others. -/
theorem storeChannel_get (p : Params) (d : Nat) (c : CoreState) (j : Nat) (hj : j < 6) :
    (c.storeChannel p d).buf[j] = if c.idx.toNat = j then channelVal p d else c.buf[j] := by
  simp [Vector.getElem_setIfInBounds]

end Sys2Proof.Machine
end

