-- ==== Sys2Proof/Laws/Step.lean ====
section
/-! SUPPORT. What one step can do (step_cases), and that no instruction touches the parameters or the inputs still to come. -/

namespace Sys2Proof.Machine

/-- One step either waits, or takes the next input and runs the instruction it decodes to. -/
theorem step_cases {s s' : State} (h : step s = .next s') :
    s.params.valid = true ∧ s.core.idx.toNat ≤ 6 ∧
    ((s.inputs = [] ∧ s' = s) ∨
     ∃ x rest i, s.inputs = x :: rest ∧ decode s.params x = .ok i ∧ exec i { s with inputs := rest } = .next s') := by
  unfold step at h
  split at h
  · cases h
  · rename_i hv
    split at h
    · cases h
    · rename_i hi
      refine ⟨by simpa using hv, idxLegal_iff.1 (by simpa using hi), ?_⟩
      split at h
      · rename_i hx; exact .inl ⟨hx, by injection h with h; exact h.symm⟩
      · rename_i x rest hx
        split at h
        · cases h
        · rename_i i hdec; exact .inr ⟨x, rest, i, hx, hdec, h⟩

/-- The parameters and the inputs to come are never written by an instruction. -/
theorem exec_params_inputs {i : Instr} {s s' : State} (h : exec i s = .next s') :
    s'.params = s.params ∧ s'.inputs = s.inputs := by
  cases i <;> (simp only [exec, execEdgeL, execEdgeH, execRdStatus, execClrReady, execSnap, execTake, execRdLastt, execReserved05,
    execReserved06, execReserved08, execReserved10, execReserved20, execReserved40, execReserved80, execReset,
    Host.Outcome.next.injEq] at h; subst h; simp)

/-- No meaning stops: CORE raises nothing (R83). -/
theorem exec_total (i : Instr) (s : State) : ∃ s', exec i s = .next s' := by
  cases i <;> exact ⟨_, rfl⟩

/-- What a meaning writes does not depend on the inputs still to come. -/
theorem exec_ignores_inputs (i : Instr) (s : State) (xs : List Input) :
    ∃ c o, exec i s = .next { s with core := c, out := o } ∧
      exec i { s with inputs := xs } = .next { s with core := c, out := o, inputs := xs } := by
  cases i <;> exact ⟨_, _, rfl, rfl⟩

/-- A host transaction returns one response, `ok` unless the word is reserved, and writes no field of CORE but READY, which it can only clear (R46, R65). -/
theorem exec_command {i : Instr} (s : State) (h : i.isCommand = true) :
    ∃ s' r, exec i s = .next s' ∧ s'.params = s.params ∧ s'.inputs = s.inputs ∧ s'.out = s.out ++ [r] ∧
      r.ok = !i.isReserved ∧ s'.core = { s.core with ready := s'.core.ready } ∧
      (s'.core.ready = s.core.ready ∨ s'.core.ready = false) := by
  cases i <;> first
    | (simp [Instr.isCommand] at h; done)
    | exact ⟨_, _, rfl, rfl, rfl, rfl, rfl, rfl, by first | exact .inl rfl | exact .inr rfl⟩

theorem step_params {s s' : State} (h : step s = .next s') : s'.params = s.params := by
  obtain ⟨-, -, ⟨-, rfl⟩ | ⟨x, rest, i, -, -, hx⟩⟩ := step_cases h
  · rfl
  · exact (exec_params_inputs hx).1

@[simp] theorem andThen_next {σ τ : Type} (s : σ) (f : σ → Host.Outcome τ Fault Refusal) : andThen (.next s) f = f s := rfl

/-- A chain answers a next state exactly where its first part does and the rest does from there. -/
theorem andThen_eq_next {σ τ : Type} {r : Host.Outcome σ Fault Refusal} {f : σ → Host.Outcome τ Fault Refusal} {t : τ} :
    andThen r f = .next t ↔ ∃ s, r = .next s ∧ f s = .next t := by
  cases r <;> simp [andThen]

/-- Running a sequence is running its first part and then the rest. -/
theorem runAll_append (is js : List Instr) (s : State) : runAll (is ++ js) s = andThen (runAll is s) (runAll js) := by
  induction is generalizing s with
  | nil => rfl
  | cons i is ih =>
    simp only [List.cons_append, runAll]
    cases exec i s with
    | next t => simpa using ih t
    | fault e => rfl
    | refused e => rfl

end Sys2Proof.Machine
end

