-- ==== Sys2Proof/Laws/Consumer.lean ====
section
/-! SUPPORT. What each step of the reference host can do: its fields after each update, what a frame take brings in either form, and where a stick value can lie. -/

namespace Sys2Proof.Machine

@[simp] theorem Consumer.takeFrame_some (v : Vector Nat 6) (c : Consumer) : c.takeFrame (some v) = { c with snapv := v } := rfl
@[simp] theorem Consumer.takeFrame_none (c : Consumer) : c.takeFrame none = c := rfl
@[simp] theorem Consumer.takeFrame_snapv (r : Option (Vector Nat 6)) (c : Consumer) : (c.takeFrame r).snapv = r.getD c.snapv := by cases r <;> rfl
@[simp] theorem Consumer.takeFrame_lost (r : Option (Vector Nat 6)) (c : Consumer) : (c.takeFrame r).lost = c.lost := by cases r <;> rfl

@[simp] theorem Consumer.convert_snapv (p : Params) (h : HostParams) (c : Consumer) : (c.convert p h).snapv = c.snapv := rfl
@[simp] theorem Consumer.convert_lost (p : Params) (h : HostParams) (c : Consumer) : (c.convert p h).lost = c.lost := rfl

/-- The sticks and the buttons are recomputed from the snapshot alone (R77, "recomputed every consumption cycle from the latest snapshot"). -/
theorem Consumer.convert_stick (p : Params) (h : HostParams) (c : Consumer) (k : Nat) (hk : k < 4) : (c.convert p h).stick[k] = stickMap p h c.snapv[k] := by
  rcases k with _ | _ | _ | _ | k <;> [rfl; rfl; rfl; rfl; omega]

theorem Consumer.convert_buttons (p : Params) (h : HostParams) (c : Consumer) (j : Nat) (hj : j < 2) :
    (c.convert p h).top[j] = buttonTop h c.snapv[4 + j] ∧ (c.convert p h).bot[j] = buttonBot h c.snapv[4 + j] := by
  rcases j with _ | _ | j <;> [exact ⟨rfl, rfl⟩; exact ⟨rfl, rfl⟩; omega]

@[simp] theorem Consumer.finish_snapv (p : Params) (h : HostParams) (r : Option (Vector Nat 6)) (c : Consumer) :
    (c.finish p h r).snapv = r.getD c.snapv := by simp [Consumer.finish]
@[simp] theorem Consumer.finish_lost (p : Params) (h : HostParams) (r : Option (Vector Nat 6)) (c : Consumer) : (c.finish p h r).lost = false := by
  simp [Consumer.finish]

/-- One TAKE brings the host the buffer exactly when READY was set (R69, R77). -/
theorem frameTake_take (s : State) :
    frameTake .take s = .next ((s.setCore s.core.clearReady).respond { ok := true, payload := .take s.core.ready s.core.buf },
      if s.core.ready then some s.core.buf else none) := by
  cases hr : s.core.ready <;> simp [frameTake, exec, execTake, State.gotFrame, hr]

/-- The host reads READY in bit 0 of the STATUS word it got, and goes on with the split sequence only where that is set. -/
theorem splitTake_eq (gap₁ gap₂ : List Instr) (s : State) :
    splitTake gap₁ gap₂ s =
      if s.core.ready then
        andThen (runAll gap₁ (s.respond { ok := true, payload := .status (statusWord s.core) })) fun s₂ =>
          andThen (runAll gap₂ ((s₂.setCore s₂.core.clearReady).respond { ok := true, payload := .empty })) fun s₄ =>
            .next (s₄.respond { ok := true, payload := .snap s₄.core.buf }, some s₄.core.buf)
      else .next (s.respond { ok := true, payload := .status (statusWord s.core) }, none) := by
  simp [splitTake, exec, execRdStatus, execClrReady, execSnap, State.gotStatus, State.gotSnap, -BitVec.getLsbD_eq_getElem, (statusWord_fields s.core).1]

/-- A cycle that finds the signal lost (R76). -/
theorem consumerCycle_lost (h : HostParams) (now : Nat) (gap : List Instr) (form : TakeForm) (s : State) (c : Consumer)
    (hl : signalLost s.params h now s.core.lastt = true) :
    consumerCycle h now gap form s c = .next (s.respond { ok := true, payload := .lastt s.core.lastt }, c.forceSafe, [.lossNotice]) := by
  simp [consumerCycle, exec, execRdLastt, State.gotLastt, hl]

/-- A cycle that does not (R75, R77 to R80). -/
theorem consumerCycle_fresh (h : HostParams) (now : Nat) (gap : List Instr) (form : TakeForm) (s : State) (c : Consumer)
    (hl : signalLost s.params h now s.core.lastt = false) :
    consumerCycle h now gap form s c =
      andThen (runAll gap (s.respond { ok := true, payload := .lastt s.core.lastt })) fun s₂ =>
        andThen (frameTake form s₂) fun r =>
          .next (r.1, c.finish s.params h r.2, [(c.finish s.params h r.2).reportLine]) := by
  simp [consumerCycle, exec, execRdLastt, State.gotLastt, hl]

/-- The clamp of R78, as a bound. -/
theorem stickClamp_eq (m : Rat) : stickClamp m = max (-100) (min 100 m) := by
  unfold stickClamp
  split
  · rename_i h; rw [min_eq_right (by linarith), max_eq_left h.le]
  · split
    · rename_i h; rw [min_eq_left h.le]; norm_num
    · rw [min_eq_right (by linarith), max_eq_right (by linarith)]

/-- A stick value lies in `[-100, 100]` (R74, R78). -/
theorem stickMap_range (p : Params) (h : HostParams) (r : Nat) : -100 ≤ stickMap p h r ∧ stickMap p h r ≤ 100 := by
  unfold stickMap stickDeadzone
  split
  · norm_num
  · rw [stickClamp_eq]; exact ⟨le_max_left _ _, max_le (by norm_num) (min_le_left _ _)⟩

/-- Under `TRUNC` a stick value is an integer (R74, R78). -/
theorem stickMap_integer (p : Params) (h : HostParams) (r : Nat) (ha : h.mapArith = .trunc) : ∃ n : Int, stickMap p h r = n := by
  have hlin : ∃ n : Int, stickLin p h.mapArith r = n := by
    rw [ha]; unfold stickLin lin; split <;> exact ⟨_, rfl⟩
  have hclamp : ∃ n : Int, stickClamp (stickLin p h.mapArith r) = n := by
    unfold stickClamp
    split
    · exact ⟨-100, by norm_num⟩
    · split <;> [exact ⟨100, by norm_num⟩; exact hlin]
  unfold stickMap stickDeadzone
  split <;> [exact ⟨0, rfl⟩; exact hclamp]

end Sys2Proof.Machine
end

