-- ==== Sys2Proof/Laws/PerInstr.lean ====
section
/-! SUPPORT. One statement about every instruction, one lemma per constructor: an instruction's encoding fits the format of its port (R48). -/

namespace Sys2Proof.Laws.EncodeFits

/-- The encoding of a well-formed instruction has the width of its format. -/
def Statement (i : Instr) : Prop := ∀ p : Params, i.wellFormed p = true → (encode p i).fits p = true

theorem encodeEvt_lt {p : Params} {t : Nat} (lvl : Bool) (h : p.isTime t = true) : encodeEvt p lvl t < 2 ^ p.evtW := by
  have ht : t < 2 ^ p.timeW := by simpa [Params.isTime] using h
  have hw : 2 ^ p.evtW = 2 ^ p.timeW + 2 ^ p.timeW := by simp [Params.evtW, Nat.pow_add]; omega
  cases lvl <;> simp [encodeEvt, hw] <;> omega

theorem edgeL (t : Nat) : Statement (.edgeL t) := fun p h => by
  simpa [encode, Input.fits] using encodeEvt_lt false h
theorem edgeH (t : Nat) : Statement (.edgeH t) := fun p h => by
  simpa [encode, Input.fits] using encodeEvt_lt true h
theorem rdStatus : Statement .rdStatus := fun _ _ => rfl
theorem clrReady : Statement .clrReady := fun _ _ => rfl
theorem snap : Statement .snap := fun _ _ => rfl
theorem take : Statement .take := fun _ _ => rfl
theorem rdLastt : Statement .rdLastt := fun _ _ => rfl
theorem reserved05 : Statement .reserved05 := fun _ _ => rfl
theorem reserved06 (x : BitVec 1) : Statement (.reserved06 x) := fun _ _ => rfl
theorem reserved08 (x : BitVec 3) : Statement (.reserved08 x) := fun _ _ => rfl
theorem reserved10 (x : BitVec 4) : Statement (.reserved10 x) := fun _ _ => rfl
theorem reserved20 (x : BitVec 5) : Statement (.reserved20 x) := fun _ _ => rfl
theorem reserved40 (x : BitVec 6) : Statement (.reserved40 x) := fun _ _ => rfl
theorem reserved80 (x : BitVec 7) : Statement (.reserved80 x) := fun _ _ => rfl
theorem reset : Statement .reset := fun _ _ => rfl

end Sys2Proof.Laws.EncodeFits
end

