-- ==== Sys2Proof/Laws/Decode.lean ====
section
/-! SUPPORT. What the decoder and the encoder do with an EVT word (R41), and which inputs fit their formats (R48). -/

namespace Sys2Proof

theorem fits_evt_iff {p : Params} {w : Nat} : (Input.evt w).fits p = true ↔ w < 2 ^ p.evtW := by
  simp [Input.fits]

theorem isTime_iff {p : Params} {t : Nat} : p.isTime t = true ↔ t < 2 ^ p.timeW := by
  simp [Params.isTime]

/-- The level and the time come back out of an encoded edge event. -/
theorem decodeEvt_encodeEvt {p : Params} {t : Nat} (lvl : Bool) (h : t < 2 ^ p.timeW) :
    decodeEvt p (encodeEvt p lvl t) = if lvl then .edgeH t else .edgeL t := by
  cases lvl
  · simp [decodeEvt, encodeEvt, Nat.testBit_lt_two_pow h, Nat.mod_eq_of_lt h]
  · have hb : (2 ^ p.timeW + t).testBit p.timeW = true := by
      rw [Nat.testBit_two_pow_add_eq, Nat.testBit_lt_two_pow h]; rfl
    simp [decodeEvt, encodeEvt, hb, Nat.mod_eq_of_lt h]

/-- What an edge word decodes to holds a TIME_W-bit time. -/
theorem decodeEvt_wellFormed (p : Params) (w : Nat) : (decodeEvt p w).wellFormed p = true := by
  unfold decodeEvt
  split <;> exact isTime_iff.2 (Nat.mod_lt _ (Nat.two_pow_pos _))

/-- Every command word is a host transaction (R42, R43). -/
theorem decodeCmd_isCommand (c : Byte) : (decodeCmd c).isCommand = true := by
  unfold decodeCmd
  repeat' split
  all_goals rfl

end Sys2Proof
end

