-- ==== Sys2Proof/Tests/Slice0.lean ====
section
/-! SUPPORT. The model's own tests: the smoke tests of WellFormed, a word of every row of the opcode table, the spec's own vectors
(95_test_vectors.md, each named in its comment), and for every obligation that has hypotheses a state and operands that meet them. -/

namespace Sys2Proof.Tests

open Sys2Proof.Machine

/-! ### Small states, in the notation of 95_test_vectors.md -/

/-- `B1` of 95_test_vectors.md section 3. -/
def b1 : Vector Nat 6 := #v[1000, 1250, 840, 1680, 740, 1780]

/-- A machine with the default parameters and this state of CORE, `BUF = B1`, and no input ready. -/
def st (ref : Nat) (sync : Bool) (idx : BitVec 3) (ready : Bool) (lastt : Nat) : State :=
  { State.reset with core := { ref := ref, sync := sync, idx := idx, ready := ready, buf := b1, lastt := lastt } }

/-- S15 of 95_test_vectors.md program P1: a completed frame not yet taken. -/
def s15 : State := st 17370 true 6#3 true 17070

/-- CORE's state after an outcome that is a next state. -/
def coreOf (o : Host.Outcome State Fault Refusal) : Option CoreState :=
  match o with
  | .next s => some s.core
  | .fault _ => none
  | .refused _ => none

/-- The responses returned, after an outcome that is a next state. -/
def outOf (o : Host.Outcome State Fault Refusal) : Option (List Response) :=
  match o with
  | .next s => some s.out
  | .fault _ => none
  | .refused _ => none

/-- The packed payload of the only response returned, with its `ok` bit (R46). -/
def packedOf (o : Host.Outcome State Fault Refusal) : Option (Bool × Nat) :=
  match o with
  | .next s => match s.out with
    | [r] => some (r.ok, r.payload.pack s.params)
    | _ => none
  | .fault _ => none
  | .refused _ => none

/-- The values that a frame take brought the host, after an outcome that is a next state. -/
def frameOf (o : Host.Outcome (State × Option (Vector Nat 6)) Fault Refusal) : Option (Option (Vector Nat 6)) :=
  match o with
  | .next r => some r.2
  | .fault _ => none
  | .refused _ => none

/-! ### WellFormed refuses an ill-formed term, check by check -/

theorem test_wellFormed_edgeL_time : (Instr.edgeL (2 ^ 32)).wellFormed Params.default = false := by decide
theorem test_wellFormed_edgeH_time : (Instr.edgeH (2 ^ 32)).wellFormed Params.default = false := by decide
theorem test_wellFormed_edge_largest :
    (Instr.edgeL (2 ^ 32 - 1)).wellFormed Params.default = true ∧ (Instr.edgeH (2 ^ 32 - 1)).wellFormed Params.default = true := by decide
theorem test_params_default_valid : Params.default.valid = true := by decide
/-- R7, one broken constraint at a time. -/
theorem test_params_invalid :
    { Params.default with margin := 841 }.valid = false ∧
    { Params.default with pwMax := 600, pwMid := 500, pwMin := 900, margin := 0 }.valid = false ∧
    { Params.default with pwMax := 2 ^ 16 - 100 }.valid = false ∧
    { Params.default with syncTh := 0 }.valid = false ∧
    { Params.default with syncTh := 2 ^ 32 }.valid = false ∧
    { Params.default with pwMin := 1250 }.valid = false ∧
    { Params.default with pwMax := 1250 }.valid = false := by decide
/-- R101: about 71.6 minutes at the defaults. -/
theorem test_wrap_period : Params.default.wrapPeriodNs / 1000000000 = 4294 := by decide

/-! ### Decoding: a word of every row, written out from R41 and R43 -/

theorem test_decode_edgeL : decode Params.default (.evt 0b000000000000000000000001111101000) = .ok (.edgeL 1000) := rfl
theorem test_decode_edgeH : decode Params.default (.evt 0b100000000000000000001111101000000) = .ok (.edgeH 8000) := rfl
theorem test_decode_evt_too_wide : decode Params.default (.evt 0x200000000) = .error .evtTooWide := rfl
theorem test_decode_commands :
    decodeCmd 0b00000000#8 = .rdStatus ∧ decodeCmd 0b00000001#8 = .clrReady ∧ decodeCmd 0b00000010#8 = .snap ∧
    decodeCmd 0b00000011#8 = .take ∧ decodeCmd 0b00000100#8 = .rdLastt := by decide
theorem test_decode_reserved :
    decodeCmd 0b00000101#8 = .reserved05 ∧
    decodeCmd 0b00000110#8 = .reserved06 0#1 ∧ decodeCmd 0b00000111#8 = .reserved06 1#1 ∧
    decodeCmd 0b00001000#8 = .reserved08 0#3 ∧ decodeCmd 0b00001111#8 = .reserved08 7#3 ∧
    decodeCmd 0b00010000#8 = .reserved10 0#4 ∧ decodeCmd 0b00010011#8 = .reserved10 3#4 ∧
    decodeCmd 0b00100000#8 = .reserved20 0#5 ∧ decodeCmd 0b00111111#8 = .reserved20 31#5 ∧
    decodeCmd 0b01000000#8 = .reserved40 0#6 ∧ decodeCmd 0b01111111#8 = .reserved40 63#6 ∧
    decodeCmd 0b10000000#8 = .reserved80 0#7 ∧ decodeCmd 0b11111111#8 = .reserved80 127#7 := by decide
theorem test_decode_reset : decode Params.default .rst = .ok .reset := rfl
/-- R43's sentence on legal words and the decoder agree on the words around each boundary of the map. -/
theorem test_cmdLegal : ∀ c ∈ [0x00#8, 0x04#8, 0x05#8, 0x0F#8, 0x10#8, 0x13#8, 0x80#8, 0xFF#8],
    cmdLegal c = !(decodeCmd c).isReserved := by decide
/-- The opcode table's numbering: 33 bits in whole bytes, 8 bits, and the reset input. -/
theorem test_decodeTableWord :
    decodeTableWord 40 0x100001F40 = some (.edgeH 8000) ∧ decodeTableWord 33 0x3E8 = some (.edgeL 1000) ∧
    decodeTableWord 8 0x03 = some .take ∧ decodeTableWord 8 0x13 = some (.reserved10 3#4) ∧
    decodeTableWord 0 0 = some .reset ∧ decodeTableWord 16 0 = none ∧ decodeTableWord 40 0x200000000 = none := by decide
/-- The word presented is the very next one to run, first after reset. -/
theorem test_withFetchWord_edgeH :
    coreOf (step (State.reset.withFetchWord 40 0x100001389)) = some { CoreState.reset with ref := 5001, sync := true } := by decide
theorem test_withFetchWord_reserved :
    outOf (step (State.reset.withFetchWord 8 0x13)) = some [{ ok := false, payload := .empty }] := by decide

/-! ### Edge events (95_test_vectors.md section 2) -/

/-- V-E01. -/
theorem test_edgeL_moves_reference : coreOf (exec (.edgeL 1300) (st 1000 true 3#3 true 7)) = some (st 1300 true 3#3 true 7).core := by decide
/-- V-E24. -/
theorem test_edgeL_long_high_is_no_gap : coreOf (exec (.edgeL 40000) s15) = some { s15.core with ref := 40000 } := by decide
/-- V-E06, V-E07, V-E08, V-E13: at SYNC_TH a capture, one tick more a sync gap; below and above the clamp bounds. -/
theorem test_edgeH_boundaries :
    let s := st 10000 true 2#3 false 0
    coreOf (exec (.edgeH 15000) s) = some { s.core with ref := 15000, idx := 3#3, buf := #v[1000, 1250, 1780, 1680, 740, 1780] } ∧
    coreOf (exec (.edgeH 15001) s) = some { s.core with ref := 15001, idx := 0#3 } ∧
    coreOf (exec (.edgeH 10000) s) = some { s.core with ref := 10000, idx := 3#3, buf := #v[1000, 1250, 740, 1680, 740, 1780] } ∧
    coreOf (exec (.edgeH 11781) s) = some { s.core with ref := 11781, idx := 3#3, buf := #v[1000, 1250, 1780, 1680, 740, 1780] } := by decide
/-- V-E14, V-E16, V-E18, V-E20: completion, a pulse after it, a capture across the wrap, a time that goes backwards. -/
theorem test_edgeH_completion_and_wrap :
    coreOf (exec (.edgeH 17070) (st 15070 true 5#3 false 0)) = some (st 17070 true 6#3 true 17070).core ∧
    coreOf (exec (.edgeH 18370) s15) = some { s15.core with ref := 18370 } ∧
    coreOf (exec (.edgeH 500) (st 0xFFFFFE0C true 0#3 false 0)) = some (st 500 true 1#3 false 0).core ∧
    coreOf (exec (.edgeH 19000) (st 20000 true 2#3 false 0)) = some (st 19000 true 0#3 false 0).core := by decide

/-! ### Host transactions (95_test_vectors.md section 3) -/

/-- V-H05, V-H06. -/
theorem test_rdStatus_word :
    packedOf (exec .rdStatus (st 0 true 3#3 true 0)) = some (true, 0x0F) ∧ packedOf (exec .rdStatus s15) = some (true, 0x1B) := by decide
/-- V-H07. -/
theorem test_clrReady : coreOf (exec .clrReady s15) = some { s15.core with ready := false } ∧ packedOf (exec .clrReady s15) = some (true, 0) := by decide
/-- V-H09. -/
theorem test_snap_payload : packedOf (exec .snap s15) = some (true, 0x06F402E40690034804E203E8) := by decide
/-- V-H10. -/
theorem test_take_payload : packedOf (exec .take s15) = some (true, 0x00DE805C80D20069009C407D1) ∧
    coreOf (exec .take s15) = some { s15.core with ready := false } := by decide
/-- V-H11. -/
theorem test_take_not_ready : packedOf (exec .take (st 0 true 6#3 false 0)) = some (true, 0x00DE805C80D20069009C407D0) := by decide
/-- V-H12. -/
theorem test_rdLastt_payload : packedOf (exec .rdLastt s15) = some (true, 0x000042AE) := by decide
/-- V-H13, V-H14: `ok = 0` and no change, one word of each reserved row. -/
theorem test_reserved_rows :
    ∀ i ∈ [Instr.reserved05, .reserved06 1#1, .reserved08 7#3, .reserved10 3#4, .reserved20 0#5, .reserved40 1#6, .reserved80 0x7F#7],
      packedOf (exec i s15) = some (false, 0) ∧ coreOf (exec i s15) = some s15.core := by decide

/-! ### Reset (95_test_vectors.md section 4) -/

/-- V-R01. -/
theorem test_reset_from_p1_end :
    coreOf (exec .reset (st 17370 true 6#3 false 17070)) = some ⟨0, false, 0#3, false, #v[0, 0, 0, 0, 0, 0], 0⟩ := by decide

/-! ### The reference host (95_test_vectors.md sections 1 and 5) and the syntax -/

/-- V-C05, V-C07, V-C09 with `TRUNC`. -/
theorem test_stick_trunc :
    stickLin Params.default .trunc 1000 = -61 ∧ stickLin Params.default .trunc 1249 = -1 ∧ stickLin Params.default .trunc 1251 = 0 := by
  have h1 : Int.tdiv 16000 410 = 39 := by decide
  have h2 : Int.tdiv 40900 410 = 99 := by decide
  have h3 : Int.tdiv 100 430 = 0 := by decide
  refine ⟨?_, ?_, ?_⟩ <;> norm_num [stickLin, lin, Params.default, h1, h2, h3]
/-- V-C05, V-C10 with `EXACT`. -/
theorem test_stick_exact :
    stickLin Params.default .exact 1000 = -2500 / 41 ∧ stickLin Params.default .exact 1254 = 40 / 43 := by
  constructor <;> norm_num [stickLin, lin, Params.default]
/-- W2, V-C18, V-C20. -/
theorem test_buttons :
    let h := HostParams.withDefaults 1 .exact 0 b1
    (buttonTop h 900, buttonBot h 900) = (true, false) ∧ (buttonTop h 1600, buttonBot h 1600) = (false, true) ∧
    (buttonTop h 1050, buttonBot h 1050) = (false, false) ∧ (buttonTop h 1580, buttonBot h 1580) = (false, false) := by decide
/-- V-C23, V-C24, V-C27. -/
theorem test_signal_loss :
    let h := HostParams.withDefaults 1 .exact 0 b1
    signalLost Params.default h 117070 17070 = false ∧ signalLost Params.default h 117071 17070 = true ∧
    signalLost Params.default h 0x000100FF 0xFFFFFF00 = false := by decide
/-- Program P5, steps 1, 15 and 16 with nothing between: the split sequence from S15 brings the host B1, and from a state with READY clear nothing (R73). -/
theorem test_split_take_brings_frame :
    frameOf (splitTake [] [] s15) = some (some b1) ∧ frameOf (splitTake [] [] (st 0 true 6#3 false 0)) = some none := by decide
/-- Lines of programs P1 and P2: `PULSE  8300, 9300 ;`, `CMD 0x13`, and an assigned code that is not written with `CMD`. -/
theorem test_parse_lines :
    parseLine ['P', 'U', 'L', 'S', 'E', ' ', ' ', '8', '3', '0', '0', ',', ' ', '9', '3', '0', '0', ' ', ';', 'x'] = some [.pulse 8300 9300] ∧
    parseLine ['C', 'M', 'D', ' ', '0', 'x', '1', '3'] = some [.instr (.reserved10 3#4)] ∧
    parseLine ['C', 'M', 'D', ' ', '0', 'x', '0', '3'] = none ∧
    parseLine ['E', 'D', 'G', 'E', '.', 'H', ' ', '8', '0', '0', '0'] = some [.instr (.edgeH 8000)] := by decide
/-- The encodings of program P1, lines 3 and 4. -/
theorem test_assemble_pulse : assemble Params.default [.pulse 8300 9300] = some [.evt 0x00000206C, .evt 0x100002454] := by decide
/-- The largest time assembles and one tick more does not (R41), in an edge line and in a pulse. -/
theorem test_assemble_time_fits :
    assemble Params.default [.instr (.edgeL 0xFFFFFFFF)] = some [.evt 0x0FFFFFFFF] ∧
    assemble Params.default [.instr (.edgeL 0x100000000)] = none ∧ assemble Params.default [.pulse 0 0x100000000] = none := by decide

/-! ### Witnesses: the hypotheses of every obligation that has some, met together -/

theorem inv_of {s : State} (hp : s.params.valid = true) (h1 : s.core.ref < 2 ^ s.params.timeW) (h2 : s.core.lastt < 2 ^ s.params.timeW)
    (h3 : s.core.idx.toNat ≤ 6) (h4 : s.core.sync = false → s.core.idx = 0#3) (h5 : s.core.ready = true → s.core.sync = true)
    (h6 : s.core.buf = b1) (h7 : s.params = Params.default) : s.Inv :=
  ⟨hp, h1, h2, h3, h4, h5, by rw [h6, h7]; decide⟩

theorem inv_s15 : s15.Inv := inv_of (by decide) (by decide) (by decide) (by decide) (by decide) (by decide) rfl rfl

theorem inv_capturing5 : (st 15070 true 5#3 false 0).Inv :=
  inv_of (by decide) (by decide) (by decide) (by decide) (by decide) (by decide) rfl rfl

theorem witness_EdgeLowRecordsTimeOnly : 2 ^ 32 - 1 < 2 ^ s15.params.timeW := by decide

/-- Both clauses, at the boundary: one tick above SYNC_TH, and SYNC_TH. -/
theorem witness_EdgeHighSyncGapRestartsFrame :
    let s := st 10000 true 2#3 false 0
    (15001 < 2 ^ s.params.timeW ∧ ((5001 : Nat) : Int) = (((15001 : Nat) : Int) - (s.core.ref : Int)) % (2 : Int) ^ s.params.timeW ∧
      s.params.syncTh < 5001) ∧
    (15000 < 2 ^ s.params.timeW ∧ ((5000 : Nat) : Int) = (((15000 : Nat) : Int) - (s.core.ref : Int)) % (2 : Int) ^ s.params.timeW ∧
      5000 ≤ s.params.syncTh) := by decide

/-- The clamp's three clauses at their bounds (739, 740, 1780, 1781, 5000), and the first and the last index. -/
theorem witness_EdgeHighCaptureStoresClampedWidth :
    ∀ k ∈ [0, 5], ∀ d ∈ [739, 740, 1780, 1781, 5000],
      let s := st 10000 true (BitVec.ofNat 3 k) true 0
      s.params.valid = true ∧ 10000 + d < 2 ^ s.params.timeW ∧
      ((d : Nat) : Int) = (((10000 + d : Nat) : Int) - (s.core.ref : Int)) % (2 : Int) ^ s.params.timeW ∧
      d ≤ s.params.syncTh ∧ s.core.sync = true ∧ s.core.idx.toNat = k ∧ k < 6 := by decide

/-- The sixth capture, and an edge event that is none because the index is 4. -/
theorem witness_CompletionIsTheSixthCapture :
    let s := st 10000 true 5#3 true 0
    let s' := st 10000 true 4#3 true 0
    11000 < 2 ^ s.params.timeW ∧ ((1000 : Nat) : Int) = (((11000 : Nat) : Int) - (s.core.ref : Int)) % (2 : Int) ^ s.params.timeW ∧
    (1000 ≤ s.params.syncTh ∧ s.core.sync = true ∧ s.core.idx = 5#3) ∧
    ((1000 : Nat) : Int) = (((11000 : Nat) : Int) - (s'.core.ref : Int)) % (2 : Int) ^ s'.params.timeW ∧
    ¬ (1000 ≤ s'.params.syncTh ∧ s'.core.sync = true ∧ s'.core.idx = 5#3) := by decide

/-- Before the first sync gap, and after the sixth capture, at SYNC_TH. -/
theorem witness_EdgeHighIgnoredWritesReferenceOnly :
    ∀ s ∈ [st 0 false 0#3 false 0, st 0 true 6#3 true 0],
      5000 < 2 ^ s.params.timeW ∧ ((5000 : Nat) : Int) = (((5000 : Nat) : Int) - (s.core.ref : Int)) % (2 : Int) ^ s.params.timeW ∧
      5000 ≤ s.params.syncTh ∧ (s.core.sync = false ∨ s.core.idx = 6#3) := by decide

theorem witness_DurationCorrectAcrossWrap : 2 ^ 32 - 500 ≤ 2 ^ 32 + 500 ∧ (2 ^ 32 + 500) - (2 ^ 32 - 500) < 2 ^ Params.default.timeW := by decide

/-- Every kind of phase, with an edge at SYNC_TH and one tick above it. -/
theorem witness_DecoderFollowsTransitionTable :
    ((st 0 false 0#3 false 0).Inv ∧ (st 0 false 0#3 false 0).core.phase = some .idle) ∧
    ((st 15070 true 5#3 false 0).Inv ∧ (st 15070 true 5#3 false 0).core.phase = some (.capturing 5)) ∧
    (s15.Inv ∧ s15.core.phase = some .done) ∧ 17370 + 5001 < 2 ^ s15.params.timeW ∧
    (17370 + 5001 + 2 ^ s15.params.timeW - s15.core.ref) % 2 ^ s15.params.timeW = 5001 ∧
    (17370 + 5000 + 2 ^ s15.params.timeW - s15.core.ref) % 2 ^ s15.params.timeW = 5000 ∧ s15.params.syncTh = 5000 :=
  ⟨⟨inv_of (by decide) (by decide) (by decide) (by decide) (by decide) (by decide) rfl rfl, by decide⟩,
    ⟨inv_capturing5, by decide⟩, ⟨inv_s15, by decide⟩, by decide, by decide, by decide, by decide⟩

theorem witness_PhaseFunctionAgreesWithMachine : s15.core.idx.toNat ≤ 6 ∧ s15.core.phase = some .done := by decide

/-- The HIGH samples of program P1 (95_test_vectors.md), from reset. -/
def wt : Fin 7 → Nat := ![8000, 9300, 10850, 11990, 13970, 14770, 17070]
/-- Their durations: the sync gap, and the six pulses. -/
def wd : Fin 7 → Nat := ![7000, 1000, 1250, 840, 1680, 500, 2000]
/-- What runs before each in P1, an EDGE.L; and two host transactions in one of the gaps. -/
def wgap : Fin 7 → List Instr :=
  ![[.edgeL 1000], [.edgeL 8300], [.edgeL 9600], [.rdStatus, .edgeL 11150, .take], [.edgeL 12290], [.edgeL 14270], [.edgeL 15070]]

theorem wgap_ok (i : Fin 7) : OnlyLowsAndCommands Params.default (wgap i) := by
  have h : ∀ i, ∀ x ∈ wgap i, x.wellFormed Params.default = true ∧ (x.isCommand = true ∨ ∃ t ∈ [1000, 8300, 9600, 11150, 12290, 14270, 15070], x = .edgeL t) := by
    decide
  intro x hx
  obtain ⟨h1, h2 | ⟨t, -, h2⟩⟩ := h i x hx
  · exact ⟨h1, .inl h2⟩
  · exact ⟨h1, .inr ⟨t, h2⟩⟩

/-- Program P1's alternating stream from reset, and the same durations from HIGH samples back to back with SYNC_TH ticks as the last. -/
theorem witness_SyncGapAndSixPulsesAssembleFrame :
    (let s := State.reset
     s.params.valid = true ∧ (∀ i, wt i < 2 ^ s.params.timeW) ∧ (∀ i, OnlyLowsAndCommands s.params (wgap i)) ∧
     (wd 0 : Int) = ((wt 0 : Int) - (lastLow s.core.ref (wgap 0) : Int)) % (2 : Int) ^ s.params.timeW ∧
     (∀ i : Fin 6, (wd i.succ : Int) = ((wt i.succ : Int) - (lastLow (wt i.castSucc) (wgap i.succ) : Int)) % (2 : Int) ^ s.params.timeW) ∧
     s.params.syncTh < wd 0 ∧ (∀ i : Fin 6, wd i.succ ≤ s.params.syncTh)) ∧
    (let t : Fin 7 → Nat := ![23370, 24870, 26470, 28170, 29970, 31870, 36870]
     let d : Fin 7 → Nat := ![6000, 1500, 1600, 1700, 1800, 1900, 5000]
     (d 0 : Int) = ((t 0 : Int) - (lastLow s15.core.ref [] : Int)) % (2 : Int) ^ s15.params.timeW ∧
     (∀ i : Fin 6, (d i.succ : Int) = ((t i.succ : Int) - (lastLow (t i.castSucc) [] : Int)) % (2 : Int) ^ s15.params.timeW) ∧
     s15.params.syncTh < d 0 ∧ ∀ i : Fin 6, d i.succ ≤ s15.params.syncTh) :=
  ⟨⟨by decide, by decide, wgap_ok, by decide, by decide, by decide, by decide⟩, by decide⟩

theorem witness_PulseMeasuresItsWidth :
    let s := st 8000 true 0#3 false 0
    s.params.valid = true ∧ 8300 < 2 ^ s.params.timeW ∧ 9300 < 2 ^ s.params.timeW ∧
    ((1000 : Nat) : Int) = (((9300 : Nat) : Int) - ((8300 : Nat) : Int)) % (2 : Int) ^ s.params.timeW ∧ 1000 ≤ s.params.syncTh ∧
    s.core.sync = true ∧ s.core.idx.toNat = 0 := by decide

/-- Both clauses, at the boundary (V-E05, and one tick more). -/
theorem witness_FirstEdgeAfterResetMeasuresItsTime :
    (5001 < 2 ^ s15.params.timeW ∧ s15.params.syncTh < 5001) ∧ 5000 < 2 ^ s15.params.timeW ∧ 5000 ≤ s15.params.syncTh := by decide

/-- A run from reset of a sync gap and five captures, the newest first: no frame has completed in it. -/
def pastFive : List Instr := [.edgeH 12000, .edgeH 11000, .edgeH 10000, .edgeH 9000, .edgeL 8500, .edgeH 8000, .edgeH 7000]

/-- The same run and the sixth capture: a frame has completed. -/
def pastSix : List Instr := .edgeH 13000 :: pastFive

theorem past_wellFormed : ∀ i ∈ pastSix, i.wellFormed Params.default = true := by decide

/-- The state that the run of five captures leaves. -/
def afterFive : State :=
  { State.reset with core := { ref := 12000, sync := true, idx := 5#3, ready := false, buf := #v[1000, 740, 1000, 1000, 1000, 0], lastt := 0 } }

/-- The state that the run of six captures leaves. -/
def afterSix : State :=
  { State.reset with core := { ref := 13000, sync := true, idx := 6#3, ready := true, buf := #v[1000, 740, 1000, 1000, 1000, 1000], lastt := 13000 } }

theorem run_pastFive : runAll pastFive.reverse (State.resetWith Params.default) = .next afterFive := rfl
theorem run_pastSix : runAll pastSix.reverse (State.resetWith Params.default) = .next afterSix := rfl

/-- A run with no frame completed: one HIGH sample, which ends a sync gap. -/
theorem witness_ReadLastTimestampReturnsIt :
    Params.default.valid = true ∧ (∀ i ∈ [Instr.edgeH 7000], i.wellFormed Params.default = true) ∧
    (∀ newer t older, [Instr.edgeH 7000] = newer ++ Instr.edgeH t :: older → ¬ Past.completes Params.default t older) ∧
    ∃ s, runAll [Instr.edgeH 7000].reverse (State.resetWith Params.default) = .next s := by
  refine ⟨by decide, by decide, ?_, _, rfl⟩
  intro newer t older h
  cases newer with
  | nil => injection h with h1 h2; injection h1 with h1; subst h1; subst h2; rintro ⟨-, -, h⟩; cases h
  | cons a as => injection h with _ h; cases as <;> cases h

theorem witness_ReservedWordAnswersNotOk : Instr.reserved10 3#4 = .reserved05 ∨ (∃ x, Instr.reserved10 3#4 = .reserved10 x) := .inr ⟨_, rfl⟩

/-- Both ends of the reserved range. -/
theorem witness_ReservedRangeAnswersNotOk : 5 ≤ (0x05#8).toNat ∧ 5 ≤ (0xFF#8).toNat := by decide

/-- A legal word and a reserved one, at the boundary of the map. -/
theorem witness_EveryCommandWordIsAnsweredOnce :
    ∀ c ∈ [0x04#8, 0x05#8, 0x10#8], let s := { s15 with inputs := [.cmd8 c] }
      s.params.valid = true ∧ s.core.idx.toNat ≤ 6 ∧ s.inputs = .cmd8 c :: [] := by decide

theorem witness_RepeatedTransactions : Instr.rdStatus ∈ [Instr.rdStatus, Instr.snap, Instr.rdLastt] ∧ Instr.reserved05.isReserved = true := by decide

theorem witness_HostWritesOnlyReady : OnlyCommands [.rdStatus, .take, .reserved80 1#7, .clrReady] := by
  intro i hi; revert hi; revert i; decide

/-- The same transactions from two states that differ in REF. -/
theorem witness_ReferenceTimeIsHiddenFromHost :
    OnlyCommands [.take] ∧ SameButRef s15.core (st 1 true 6#3 true 17070).core ∧ s15.out = (st 1 true 6#3 true 17070).out ∧
    (∃ s, runAll [.take] s15 = .next s) ∧ ∃ s, runAll [.take] (st 1 true 6#3 true 17070) = .next s :=
  ⟨by intro i hi; revert hi; revert i; decide, ⟨rfl, rfl, rfl, rfl, rfl⟩, rfl, ⟨_, rfl⟩, ⟨_, rfl⟩⟩

theorem witness_SplitHandshakeEqualsTakeWithoutEdges : s15.core.ready = true ∧ (st 0 true 6#3 false 0).core.ready = false := by decide

/-- A sync gap in the first window, and nothing in the second. -/
theorem witness_SplitHandshakeRaceOutcomes : s15.core.ready = true ∧
    ∃ s₁ s₂ s₃, exec .rdStatus s15 = .next s₁ ∧ runAll [.edgeH 23370] s₁ = .next s₂ ∧
      runAll [] { s₂ with core := { s₂.core with ready := false }, out := s₂.out ++ [{ ok := true, payload := .empty }] } = .next s₃ :=
  ⟨rfl, _, _, _, rfl, rfl, rfl⟩

theorem witness_LateTakeMixesTwoFrames :
    s15.params.valid = true ∧ s15.core.ref ≤ 23370 ∧ s15.params.syncTh < 23370 - s15.core.ref ∧ 23370 ≤ 24570 ∧
    24570 - 23370 ≤ s15.params.syncTh ∧ 24570 < 2 ^ s15.params.timeW ∧ s15.core.ready = true := by decide

theorem witness_PackedPayloadLayout : (∀ i : Fin 6, b1[i] < 2 ^ Params.default.pwW) ∧ 2 ^ 32 - 1 < 2 ^ Params.default.timeW := by decide

/-- An edge and a transaction at the instant of a reset. -/
theorem witness_ResetWinsOverSimultaneousInputs :
    let x : Instant := { rst := true, evt := some 0x1FFFFFFFF, cmd := some 0x03#8 }
    s15.Inv ∧ x.rst = true ∧ ∀ w, x.evt = some w → w < 2 ^ (1 + s15.params.timeW) :=
  ⟨inv_s15, rfl, by intro w h; injection h with h; subst h; decide⟩

theorem witness_FirstReadyNeedsSyncAndSixCaptures :
    Params.default.valid = true ∧ (∀ i ∈ pastSix, i.wellFormed Params.default = true) ∧
    runAll pastSix.reverse (State.resetWith Params.default) = .next afterSix ∧ afterSix.core.ready = true :=
  ⟨by decide, past_wellFormed, run_pastSix, rfl⟩

theorem witness_StepRunsTheDecodedInput :
    let s := { s15 with inputs := [.cmd8 0x03#8] }
    s.params.valid = true ∧ s.core.idx.toNat ≤ 6 ∧ s.inputs = .cmd8 0x03#8 :: [] ∧ decode s.params (.cmd8 0x03#8) = .ok .take :=
  ⟨by decide, by decide, rfl, rfl⟩

theorem witness_StepWaitsWithoutInput : s15.params.valid = true ∧ s15.core.idx.toNat ≤ 6 ∧ s15.inputs = [] := by decide

/-- A state on each side of every clause. -/
theorem witness_StepRefusesExactly :
    { Params.default with syncTh := 0 }.valid = false ∧ (Params.default.valid = true ∧ (st 0 true 7#3 false 0).core.idx = 7#3) ∧
    2 ^ (1 + Params.default.timeW) ≤ 0x200000000 := by decide

/-- A clause for each kind of write: SYNC set and cleared, READY set and cleared. -/
theorem witness_EachFieldHasOnlyItsWriters :
    (∃ s', exec (.edgeH 7000) (st 0 false 0#3 false 0) = .next s' ∧ s'.core.sync = true) ∧
    (∃ s', exec .reset s15 = .next s' ∧ s'.core.sync = false ∧ s'.core.ready = false) ∧
    (∃ s', exec .take s15 = .next s' ∧ s'.core.ready = false) ∧
    (∃ s', exec (.edgeH 17070) (st 15070 true 5#3 false 0) = .next s' ∧ s'.core.ready = true) ∧
    Instr.isCommand (.edgeL 0) = false :=
  ⟨⟨_, rfl, rfl⟩, ⟨_, rfl, rfl, rfl⟩, ⟨_, rfl, rfl⟩, ⟨_, rfl, rfl⟩, rfl⟩

theorem witness_InvariantsHoldAtReset : Params.default.valid = true := by decide

/-- The step that completes a frame. -/
theorem witness_EveryStepKeepsInvariants :
    { st 15070 true 5#3 false 0 with inputs := [.evt 0x1000042AE] }.Inv ∧
    ∃ s', step { st 15070 true 5#3 false 0 with inputs := [.evt 0x1000042AE] } = .next s' :=
  ⟨inv_of (by decide) (by decide) (by decide) (by decide) (by decide) (by decide) rfl rfl, _, rfl⟩

/-- A reachable state other than the reset state: the first edge after reset has run. -/
theorem witness_ReachableStatesMeetInvariants :
    Params.default.valid = true ∧ ∃ s, Reachable Params.default s ∧ s.core.sync = true :=
  ⟨by decide, _, .step (.present [.evt 0x100001389] .reset) rfl, rfl⟩

theorem witness_NoInputLeavesCoreStuck :
    { s15 with inputs := [.evt 0x1FFFFFFFF, .cmd8 0xFF#8, .rst] }.Inv ∧ { s15 with inputs := [.evt 0x1FFFFFFFF, .cmd8 0xFF#8, .rst] }.InputsFit :=
  ⟨inv_of (by decide) (by decide) (by decide) (by decide) (by decide) (by decide) rfl rfl, by intro x hx; revert hx; revert x; decide⟩

theorem witness_QueuedInputsRunInOrder :
    let is : List Instr := [.edgeH 23370, .take, .reset]
    let s := { s15 with inputs := is.map (encode s15.params) }
    s.Inv ∧ (∀ i ∈ is, i.wellFormed s.params = true) ∧ s.inputs = is.map (encode s.params) :=
  ⟨inv_of (by decide) (by decide) (by decide) (by decide) (by decide) (by decide) rfl rfl, by decide, rfl⟩

theorem witness_EveryInputOrderIsAdmitted : Admits [] [] := .nil

theorem witness_PastDeterminesEveryField : Params.default.valid = true ∧ ∀ i ∈ pastSix, i.wellFormed Params.default = true :=
  ⟨by decide, past_wellFormed⟩

/-- The five captures, and the sixth as the instruction that runs next. -/
theorem witness_EveryInstructionKeepsAgreementWithPast :
    Params.default.valid = true ∧ (∀ i ∈ pastFive, i.wellFormed Params.default = true) ∧ (Instr.edgeH 13000).wellFormed Params.default = true ∧
    Past.Agrees Params.default pastFive afterFive :=
  ⟨by decide, by decide, by decide, rfl, by decide, by decide, by decide, by decide, by decide, by decide⟩

/-- READY is clear after five captures, and the sixth completes the frame. -/
theorem witness_ReadyRisesExactlyAtSixthCapture :
    Params.default.valid = true ∧ (∀ i ∈ pastFive, i.wellFormed Params.default = true) ∧ 13000 < 2 ^ Params.default.timeW ∧
    runAll pastFive.reverse (State.resetWith Params.default) = .next afterFive ∧ afterFive.core.ready = false ∧
    Past.completes Params.default 13000 pastFive :=
  ⟨by decide, by decide, by decide, run_pastFive, rfl, by decide, by decide, by decide⟩

theorem witness_CompletedFrameIsWholeAndStamped :
    Params.default.valid = true ∧ (∀ i ∈ pastFive, i.wellFormed Params.default = true) ∧ 13000 < 2 ^ Params.default.timeW ∧
    runAll pastFive.reverse (State.resetWith Params.default) = .next afterFive ∧ exec (.edgeH 13000) afterFive = .next afterSix ∧
    Past.completes Params.default 13000 pastFive :=
  ⟨by decide, by decide, by decide, run_pastFive, rfl, by decide, by decide, by decide⟩

/-- A pulse of SYNC_TH ticks, a transaction, and another pulse. -/
theorem witness_NoSyncGapKeepsDecoderDone :
    let s := st 17370 true 6#3 false 17070
    let is : List Instr := [.edgeH 22370, .take, .edgeL 30000, .edgeH 31000]
    s.core.sync = true ∧ s.core.idx = 6#3 ∧ s.core.ready = false ∧ s.core.ref < 2 ^ s.params.timeW ∧
    (∀ i ∈ is, i.wellFormed s.params = true) ∧ Instr.reset ∉ is ∧ NoSyncGap s.params s.core.ref is :=
  ⟨rfl, rfl, rfl, by decide, by decide, by decide, by decide, by decide, trivial⟩

theorem witness_DecodeInvertsEncode : (Instr.edgeH (2 ^ 32 - 1)).wellFormed Params.default = true := by decide

theorem witness_EncodeInvertsDecode : decode Params.default (.evt 0x1FFFFFFFF) = .ok (.edgeH 0xFFFFFFFF) := rfl

theorem hostParams_valid : (HostParams.withDefaults 1 .exact 0 b1).valid Params.default = true := by
  simp [HostParams.valid, HostParams.withDefaults, Params.default]

theorem witness_ButtonPairIsExclusive : (HostParams.withDefaults 1 .exact 0 b1).valid Params.default = true := hostParams_valid

/-- A deadzone below 100, and a value on each side of it: V-C10's magnitude 40/43 is within a deadzone of 1, V-C12's is not. -/
theorem witness_StickMappingEndpointsAndRange :
    let h := HostParams.withDefaults 1 .exact 0 b1
    Params.default.valid = true ∧ h.valid Params.default = true ∧ h.deadzone < 100 ∧
    |max (-100) (min 100 (stickLin Params.default h.mapArith 1254))| ≤ h.deadzone ∧
    h.deadzone < |max (-100) (min 100 (stickLin Params.default h.mapArith 1680))| := by
  refine ⟨by decide, hostParams_valid, ?_, ?_, ?_⟩ <;>
    norm_num [HostParams.withDefaults, stickLin, lin, Params.default, abs_of_pos]

/-- W3, and one tick more than TIMEOUT. -/
theorem witness_LostSignalForcesSafeState :
    let h := HostParams.withDefaults 1 .exact 0 b1
    (h.timeout : Int) < (((167070 : Nat) : Int) - (s15.core.lastt : Int)) % (2 : Int) ^ s15.params.timeW ∧
    (h.timeout : Int) < (((117071 : Nat) : Int) - (s15.core.lastt : Int)) % (2 : Int) ^ s15.params.timeW := by decide

/-- At TIMEOUT exactly (V-C23), with a pulse between the two transactions. -/
theorem witness_FreshSignalIsTakenAndReported :
    let h := HostParams.withDefaults 1 .exact 0 b1
    (((117070 : Nat) : Int) - (s15.core.lastt : Int)) % (2 : Int) ^ s15.params.timeW ≤ (h.timeout : Int) ∧
    ∃ s₁ s₂, exec .rdLastt s15 = .next s₁ ∧ runAll [.edgeH 18370] s₁ = .next s₂ :=
  ⟨by decide, _, _, rfl, rfl⟩

/-- The split sequence from S15 with a pulse in each window, READY seen; and from a state with READY clear. -/
theorem witness_SplitFormCycleUsesTheCopiedFrame :
    let h := HostParams.withDefaults 1 .exact 0 b1
    (((117070 : Nat) : Int) - (s15.core.lastt : Int)) % (2 : Int) ^ s15.params.timeW ≤ (h.timeout : Int) ∧
    (∃ s₁ s₂ s₃ s₄ s₅ s₆, exec .rdLastt s15 = .next s₁ ∧ runAll [] s₁ = .next s₂ ∧ exec .rdStatus s₂ = .next s₃ ∧
      runAll [.edgeH 23370] s₃ = .next s₄ ∧ exec .clrReady s₄ = .next s₅ ∧ runAll [.edgeH 24570] s₅ = .next s₆ ∧ s₂.core.ready = true) ∧
    ∃ s₁ s₂ s₃ s₄ s₅ s₆, exec .rdLastt (st 0 true 6#3 false 17070) = .next s₁ ∧ runAll [] s₁ = .next s₂ ∧ exec .rdStatus s₂ = .next s₃ ∧
      runAll [] s₃ = .next s₄ ∧ exec .clrReady s₄ = .next s₅ ∧ runAll [] s₅ = .next s₆ ∧ s₂.core.ready = false :=
  ⟨by decide, ⟨_, _, _, _, _, _, rfl, rfl, rfl, rfl, rfl, rfl, rfl⟩, _, _, _, _, _, _, rfl, rfl, rfl, rfl, rfl, rfl, rfl⟩

/-- A host at its start, and a cycle of it that takes S15's frame by the split sequence. -/
theorem witness_HostCycleKeepsSticksInRange :
    let h := HostParams.withDefaults 1 .exact 0 b1
    let c : Consumer := { snapv := b1, stick := #v[0, 0, 0, 0], top := #v[false, false], bot := #v[false, false], lost := false }
    c.AtStart h ∧ ∃ r, consumerCycle h 20000 [] (.split [] []) s15 c = .next r := by
  refine ⟨⟨rfl, ?_, fun _ k => ⟨0, ?_⟩⟩, _, rfl⟩
  · intro k; fin_cases k <;> norm_num
  · fin_cases k <;> rfl

end Sys2Proof.Tests
end

section
/-! What one step answers in each branch of its definition, and the statements about the step itself (R7, R11, R34, R41, U11). -/

namespace Sys2Proof.Machine

/-- The index 7 is the one value of `IDX` that R15 does not give it. -/
theorem idx_le_six_iff {x : BitVec 3} : x.toNat ≤ 6 ↔ x ≠ 7#3 := by
  revert x; decide

/-- The next input is an edge word wider than format `EVT` (R41). -/
def State.NextEvtTooWide (s : State) : Prop :=
  ∃ w rest, s.inputs = .evt w :: rest ∧ 2 ^ (1 + s.params.timeW) ≤ w

/-- An input whose bits fit its format decodes (R47, R48). -/
theorem decode_of_fits {p : Params} {x : Input} (h : x.fits p = true) : ∃ i, decode p x = .ok i := by
  cases x with
  | evt w => exact ⟨_, if_pos (fits_evt_iff.1 h)⟩
  | cmd8 c => exact ⟨_, rfl⟩
  | rst => exact ⟨_, rfl⟩

theorem decode_evt_tooWide {p : Params} {w : Nat} (h : 2 ^ (1 + p.timeW) ≤ w) : decode p (.evt w) = .error .evtTooWide :=
  if_neg (Nat.not_lt.2 h)

/-- An input at the head of the queue fits its format unless it is an edge word that is too wide. -/
theorem fits_of_not_nextEvtTooWide {s : State} {x : Input} {rest : List Input} (hx : s.inputs = x :: rest)
    (h : ¬ s.NextEvtTooWide) : x.fits s.params = true := by
  cases x with
  | evt w => exact fits_evt_iff.2 (Nat.lt_of_not_le fun hw => h ⟨w, rest, hx, hw⟩)
  | cmd8 c => rfl
  | rst => rfl

/-! ### The branches of a step -/

theorem step_of_invalid {s : State} (h : s.params.valid = false) : step s = .refused .illegalParams :=
  if_pos h

theorem step_of_idxSeven {s : State} (hv : s.params.valid = true) (hi : s.core.idx = 7#3) : step s = .refused .idxSeven := by
  have hl : s.core.idxLegal = false := by simp [CoreState.idxLegal, hi]
  simp [step, hv, hl]

theorem step_of_nil {s : State} (hv : s.params.valid = true) (hi : s.core.idx.toNat ≤ 6) (hx : s.inputs = []) :
    step s = .next s := by
  simp [step, hv, idxLegal_iff.2 hi, hx]

theorem step_of_decode_error {s : State} {x : Input} {rest : List Input} (hv : s.params.valid = true)
    (hi : s.core.idx.toNat ≤ 6) (hx : s.inputs = x :: rest) (hd : decode s.params x = .error .evtTooWide) :
    step s = .refused .evtTooWide := by
  simp [step, hv, idxLegal_iff.2 hi, hx, hd]

/-- The next input leaves the queue and its instruction runs (R11, R34). -/
theorem step_of_decode_ok {s : State} {x : Input} {rest : List Input} {i : Instr} (hv : s.params.valid = true)
    (hi : s.core.idx.toNat ≤ 6) (hx : s.inputs = x :: rest) (hd : decode s.params x = .ok i) :
    step s = exec i { s with inputs := rest } := by
  simp [step, hv, idxLegal_iff.2 hi, hx, hd]

/-- A legal state whose next input, if there is one, fits its format takes a step (R83). -/
theorem step_of_not_nextEvtTooWide {s : State} (hv : s.params.valid = true) (hi : s.core.idx.toNat ≤ 6)
    (hw : ¬ s.NextEvtTooWide) : ∃ s', step s = .next s' := by
  cases hx : s.inputs with
  | nil => exact ⟨s, step_of_nil hv hi hx⟩
  | cons x rest =>
    obtain ⟨i, hd⟩ := decode_of_fits (fits_of_not_nextEvtTooWide hx hw)
    rw [step_of_decode_ok hv hi hx hd]
    exact exec_total i _

/-- What a step answers, over every state: one of the three refusals, each with its condition, or a next state. -/
theorem step_answers (s : State) :
    (s.params.valid = false ∧ step s = .refused .illegalParams) ∨
    (s.params.valid = true ∧ s.core.idx = 7#3 ∧ step s = .refused .idxSeven) ∨
    (s.params.valid = true ∧ s.core.idx ≠ 7#3 ∧ s.NextEvtTooWide ∧ step s = .refused .evtTooWide) ∨
    (s.params.valid = true ∧ s.core.idx ≠ 7#3 ∧ ¬ s.NextEvtTooWide ∧ ∃ s', step s = .next s') := by
  cases hv : s.params.valid with
  | false => exact .inl ⟨rfl, step_of_invalid hv⟩
  | true =>
    by_cases hi : s.core.idx = 7#3
    · exact .inr (.inl ⟨rfl, hi, step_of_idxSeven hv hi⟩)
    · have hle := idx_le_six_iff.2 hi
      by_cases hw : s.NextEvtTooWide
      · have ⟨w, rest, hx, hlt⟩ := hw
        exact .inr (.inr (.inl ⟨rfl, hi, hw, step_of_decode_error hv hle hx (decode_evt_tooWide hlt)⟩))
      · exact .inr (.inr (.inr ⟨rfl, hi, hw, step_of_not_nextEvtTooWide hv hle hw⟩))

/-! ### The obligations -/

/-- Settles O33: the four answers of a step exclude each other, so each refusal has exactly its own condition. -/
theorem stepRefusesExactly : Obligations.StepRefusesExactly := by
  intro s
  change _ ∧ _ ∧ (_ ↔ _ ∧ _ ∧ s.NextEvtTooWide) ∧ _
  obtain ⟨hv, h⟩ | ⟨hv, hi, h⟩ | ⟨hv, hi, hw, h⟩ | ⟨hv, hi, hw, s', h⟩ := step_answers s
  · simp [h, hv]
  · simp [h, hv, hi]
  · simp [h, hv, hi, hw]
  · simp [h, hv, hi, hw]

/-- Settles O31: the branch of a step whose next input decodes. -/
theorem stepRunsTheDecodedInput : Obligations.StepRunsTheDecodedInput :=
  fun _ _ _ _ hv hi hx hd => step_of_decode_ok hv hi hx hd

end Sys2Proof.Machine
end

section
/-! The laws of the state's fields: what one instruction writes, field by field, and that every operation keeps the invariants of R22 (R12 to R19, R22, R59). -/

namespace Sys2Proof.Machine

/-! ### What one instruction does to the core -/

/-- What an instruction does to CORE, by its kind: each edge event, the two transactions that clear READY, the other transactions, and the reset. -/
theorem exec_core_cases {i : Instr} {s s' : State} (h : exec i s = .next s') :
    (∃ t, i = .edgeL t ∧ s'.core = s.core.recordTime s.params t) ∨
    (∃ t, i = .edgeH t ∧ s'.core = (s.core.recordTime s.params t).edgeHBranch s.params t (subW s.params t s.core.ref)) ∨
    ((i = .clrReady ∨ i = .take) ∧ s'.core = s.core.clearReady) ∨
    (i.isCommand = true ∧ i ≠ .clrReady ∧ i ≠ .take ∧ s'.core = s.core) ∨
    (i = .reset ∧ s'.core = CoreState.reset) := by
  cases i with
  | edgeL t => cases h; exact .inl ⟨t, rfl, rfl⟩
  | edgeH t => cases h; exact .inr (.inl ⟨t, rfl, rfl⟩)
  | clrReady => cases h; exact .inr (.inr (.inl ⟨.inl rfl, rfl⟩))
  | take => cases h; exact .inr (.inr (.inl ⟨.inr rfl, rfl⟩))
  | reset => cases h; exact .inr (.inr (.inr (.inr ⟨rfl, rfl⟩)))
  | _ => cases h; exact .inr (.inr (.inr (.inl ⟨rfl, nofun, nofun, rfl⟩)))

/-- Only a host transaction returns a response (R46, R53, R54, R96). -/
theorem exec_out_of_not_command {i : Instr} {s s' : State} (hi : i.isCommand = false) (h : exec i s = .next s') :
    s'.out = s.out := by
  cases i with
  | edgeL t => cases h; rfl
  | edgeH t => cases h; rfl
  | reset => cases h; rfl
  | _ => cases hi

/-! ### What a branch of EDGE.H does to each field (R54 to R58) -/

theorem edgeHBranch_ref (p : Params) (t d : Nat) (c : CoreState) : (c.edgeHBranch p t d).ref = c.ref := by
  obtain ⟨-, h⟩ | ⟨-, -, -, h⟩ | ⟨-, -, -, h⟩ | ⟨-, -, h⟩ := edgeHBranch_cases p t d c <;> simp [h]

theorem edgeHBranch_sync (p : Params) (t d : Nat) (c : CoreState) :
    (c.edgeHBranch p t d).sync = (decide (p.syncTh < d) || c.sync) := by
  obtain ⟨hd, h⟩ | ⟨hd, -, -, h⟩ | ⟨hd, -, -, h⟩ | ⟨hd, -, h⟩ := edgeHBranch_cases p t d c
  · simp [h, hd]
  all_goals simp [h, Nat.not_lt.2 hd]

/-- An ignored `EDGE.H` is in no state that captures (R58). -/
theorem not_captures_of_ignored {c : CoreState} (h : c.sync = false ∨ 6 ≤ c.idx.toNat) : ¬ (c.sync = true ∧ c.idx.toNat < 6) := by
  rintro ⟨hs, hlt⟩
  rcases h with h | h
  · simp [h] at hs
  · omega

theorem edgeHBranch_idx (p : Params) (t d : Nat) (c : CoreState) :
    (c.edgeHBranch p t d).idx.toNat =
      if p.syncTh < d then 0 else if c.sync = true ∧ c.idx.toNat < 6 then c.idx.toNat + 1 else c.idx.toNat := by
  obtain ⟨hd, h⟩ | ⟨hd, hs, hi, h⟩ | ⟨hd, hs, hi, h⟩ | ⟨hd, hi, h⟩ := edgeHBranch_cases p t d c
  · simp [h, hd]
  · rw [h, CoreState.storeChannel_idx, idx_succ_toNat (by omega), if_neg (by omega), if_pos ⟨hs, by omega⟩]
  · rw [h, CoreState.completeFrame_idx, CoreState.storeChannel_idx, idx_succ_toNat (by omega), if_neg (by omega), if_pos ⟨hs, by omega⟩]
  · rw [h, if_neg (by omega), if_neg (not_captures_of_ignored hi)]

/-- The two writes of a completion (R57): the sixth capture makes both, and no other branch makes either. -/
theorem edgeHBranch_completion (p : Params) (t d : Nat) (c : CoreState) :
    (d ≤ p.syncTh ∧ c.sync = true ∧ c.idx.toNat = 5 ∧ (c.edgeHBranch p t d).ready = true ∧ (c.edgeHBranch p t d).lastt = timeVal p t) ∨
    (¬ (d ≤ p.syncTh ∧ c.sync = true ∧ c.idx.toNat = 5) ∧
      (c.edgeHBranch p t d).ready = c.ready ∧ (c.edgeHBranch p t d).lastt = c.lastt) := by
  obtain ⟨hd, h⟩ | ⟨hd, hs, hi, h⟩ | ⟨hd, hs, hi, h⟩ | ⟨hd, hi, h⟩ := edgeHBranch_cases p t d c
  · exact .inr ⟨by omega, by simp [h], by simp [h]⟩
  · exact .inr ⟨by omega, by simp [h], by simp [h]⟩
  · exact .inl ⟨hd, hs, hi, by simp [h], by simp [h]⟩
  · exact .inr ⟨fun hc => not_captures_of_ignored hi ⟨hc.2.1, by omega⟩, by rw [h], by rw [h]⟩

/-- A capture writes the element at the index, and no branch writes another one (R56). -/
theorem edgeHBranch_buf (p : Params) (t d : Nat) (c : CoreState) (j : Nat) (hj : j < 6) :
    (c.edgeHBranch p t d).buf[j] =
      if d ≤ p.syncTh ∧ c.sync = true ∧ c.idx.toNat = j then channelVal p d else c.buf[j] := by
  obtain ⟨hd, h⟩ | ⟨hd, hs, hi, h⟩ | ⟨hd, hs, hi, h⟩ | ⟨hd, hi, h⟩ := edgeHBranch_cases p t d c
  · simp [h, Nat.not_le.2 hd]
  · simp only [h, storeChannel_get, hd, hs, true_and]
  · simp only [h, CoreState.completeFrame_buf, storeChannel_get, hd, hs, true_and]
  · rw [if_neg fun hc => not_captures_of_ignored hi ⟨hc.2.1, by omega⟩]
    simp only [h]

/-! ### The invariants of R22, of CORE's fields alone -/

/-- The clauses of `State.Inv` on CORE's fields, for parameters `p`. -/
structure CoreState.Inv (p : Params) (c : CoreState) : Prop where
  ref_range   : c.ref < 2 ^ p.timeW
  lastt_range : c.lastt < 2 ^ p.timeW
  idx_le      : c.idx.toNat ≤ 6
  idle_idx    : c.sync = false → c.idx = 0#3
  ready_sync  : c.ready = true → c.sync = true
  buf_range   : ∀ (i : Nat) (h : i < 6), c.buf[i] = 0 ∨ (p.clampLo ≤ c.buf[i] ∧ c.buf[i] ≤ p.clampHi)

theorem State.inv_iff {s : State} : s.Inv ↔ s.params.valid = true ∧ s.core.Inv s.params :=
  ⟨fun ⟨hp, h₁, h₂, h₃, h₄, h₅, h₆⟩ => ⟨hp, h₁, h₂, h₃, h₄, h₅, h₆⟩, fun ⟨hp, h₁, h₂, h₃, h₄, h₅, h₆⟩ => ⟨hp, h₁, h₂, h₃, h₄, h₅, h₆⟩⟩

namespace CoreState.Inv

variable {p : Params} {c : CoreState}

theorem reset (p : Params) : CoreState.reset.Inv p where
  ref_range   := Nat.two_pow_pos _
  lastt_range := Nat.two_pow_pos _
  idx_le      := Nat.zero_le _
  idle_idx    := fun _ => rfl
  ready_sync  := nofun
  buf_range   := fun i hi => .inl (by interval_cases i <;> rfl)

theorem recordTime (h : c.Inv p) (t : Nat) : (c.recordTime p t).Inv p :=
  { h with ref_range := timeVal_lt p t }

theorem acquireSync (h : c.Inv p) : c.acquireSync.Inv p :=
  { h with idx_le := Nat.zero_le _, idle_idx := nofun, ready_sync := fun _ => rfl }

/-- The store lies in the clamp range whatever the duration is (R7, R56, I4). -/
theorem storeChannel (hp : p.valid = true) (h : c.Inv p) (hs : c.sync = true) (hi : c.idx.toNat < 6) (d : Nat) :
    (c.storeChannel p d).Inv p :=
  { h with
    idx_le    := by rw [CoreState.storeChannel_idx, idx_succ_toNat hi]; omega
    idle_idx  := fun hf => absurd (hs.symm.trans hf) nofun
    buf_range := fun j hj => by
      rw [storeChannel_get]
      split
      · exact .inr (channelVal_range hp d)
      · exact h.buf_range j hj }

theorem completeFrame (h : c.Inv p) (hs : c.sync = true) (t : Nat) : (c.completeFrame p t).Inv p :=
  { h with lastt_range := timeVal_lt p t, ready_sync := fun _ => hs }

theorem clearReady (h : c.Inv p) : c.clearReady.Inv p :=
  { h with ready_sync := nofun }

theorem edgeHBranch (hp : p.valid = true) (h : c.Inv p) (t d : Nat) : (c.edgeHBranch p t d).Inv p := by
  obtain ⟨-, hb⟩ | ⟨-, hs, hi, hb⟩ | ⟨-, hs, hi, hb⟩ | ⟨-, -, hb⟩ := edgeHBranch_cases p t d c
  · rw [hb]; exact h.acquireSync
  · rw [hb]; exact h.storeChannel hp hs (by omega) d
  · rw [hb]; exact (h.storeChannel hp hs (by omega) d).completeFrame hs t
  · rw [hb]; exact h

end CoreState.Inv

/-- Every instruction keeps the invariants, with any operand (R22). -/
theorem exec_keeps_inv {i : Instr} {s s' : State} (hs : s.Inv) (h : exec i s = .next s') : s'.Inv := by
  obtain ⟨hp, hc⟩ := State.inv_iff.1 hs
  rw [State.inv_iff, (exec_params_inputs h).1]
  refine ⟨hp, ?_⟩
  obtain ⟨t, -, hx⟩ | ⟨t, -, hx⟩ | ⟨-, hx⟩ | ⟨-, -, -, hx⟩ | ⟨-, hx⟩ := exec_core_cases h
  · rw [hx]; exact hc.recordTime t
  · rw [hx]; exact (hc.recordTime t).edgeHBranch hp t _
  · rw [hx]; exact hc.clearReady
  · rw [hx]; exact hc
  · rw [hx]; exact .reset _

/-- The inputs still to come are in no clause of the invariants. -/
theorem State.Inv.with_inputs {s : State} (h : s.Inv) (xs : List Input) : { s with inputs := xs }.Inv := by
  rw [State.inv_iff] at h ⊢
  exact h

/-! ### The invariants: the obligations -/

/-- Settles O35: every clause holds of zeros. -/
theorem invariantsHoldAtReset : Obligations.InvariantsHoldAtReset :=
  fun p hp => State.inv_iff.2 ⟨hp, .reset p⟩

/-- Settles O36: a step waits, or it runs one instruction, and every instruction keeps the invariants. -/
theorem everyStepKeepsInvariants : Obligations.EveryStepKeepsInvariants := by
  intro s s' hs h
  obtain ⟨-, -, ⟨-, rfl⟩ | ⟨x, rest, i, -, -, hx⟩⟩ := step_cases h
  · exact hs
  · exact exec_keeps_inv (hs.with_inputs rest) hx

/-- Settles O37: by induction over how the state was reached, from the two statements before. -/
theorem reachableStatesMeetInvariants : Obligations.ReachableStatesMeetInvariants := by
  intro p s hp hr
  induction hr with
  | reset => exact ⟨rfl, invariantsHoldAtReset p hp⟩
  | present xs _ ih => exact ⟨ih.1, ih.2.with_inputs _⟩
  | step _ h ih => exact ⟨(step_params h).trans ih.1, everyStepKeepsInvariants _ _ ih.2 h⟩

/-! ### The state-machine view and the writer table -/

/-- A sync gap starts a new frame from every phase (R59). -/
theorem Phase.afterEdgeH_gap {p : Params} {d : Nat} (hd : p.syncTh < d) (ph : Phase) : ph.afterEdgeH p d = .capturing 0 := by
  cases ph <;> exact if_pos hd

/-- A capture moves to the next channel, or to `Done` after the sixth (R59). -/
theorem Phase.afterEdgeH_capturing {p : Params} {d : Nat} (hd : ¬ p.syncTh < d) (k : Fin 6) :
    (Phase.capturing k).afterEdgeH p d = if h : k.val + 1 < 6 then .capturing ⟨k.val + 1, h⟩ else .done :=
  if_neg hd

/-- Settles O8: phase by phase, `SYNC` and `IDX` after the edge event are those of the row of R59's table. -/
theorem phaseFunctionAgreesWithMachine : Obligations.PhaseFunctionAgreesWithMachine := by
  intro t s ph _ hph
  refine ⟨_, rfl, ?_⟩
  set d := subW s.params t s.core.ref
  set c := s.core.recordTime s.params t
  have hsync := edgeHBranch_sync s.params t d c
  have hidx := edgeHBranch_idx s.params t d c
  change (c.edgeHBranch s.params t d).phase = _
  by_cases hd : s.params.syncTh < d
  · rw [Phase.afterEdgeH_gap hd, phase_capturing_iff]
    simp [hsync, hidx, hd]
  · cases ph with
    | idle =>
      have h := phase_idle_iff.1 hph
      rw [show Phase.idle.afterEdgeH s.params d = .idle from if_neg hd, phase_idle_iff]
      simp [hsync, hd, c, h]
    | capturing k =>
      obtain ⟨hs, hi⟩ := phase_capturing_iff.1 hph
      rw [Phase.afterEdgeH_capturing hd]
      split
      · rw [phase_capturing_iff]
        simp [hsync, hidx, hd, c, hs, hi]
      · have h6 : k.val + 1 = 6 := by omega
        rw [phase_done_iff]
        simp [hsync, hidx, hd, c, hs, hi, h6]
    | done =>
      have h := phase_done_iff.1 hph
      rw [show Phase.done.afterEdgeH s.params d = .done from if_neg hd, phase_done_iff]
      simp [hsync, hidx, hd, c, h]

/-- An `EDGE.H` never clears READY (R57). -/
theorem edgeHBranch_keeps_ready {p : Params} {t d : Nat} {c : CoreState} (h : c.ready = true) :
    (c.edgeHBranch p t d).ready = true := by
  obtain ⟨-, -, -, hr, -⟩ | ⟨-, hr, -⟩ := edgeHBranch_completion p t d c
  · exact hr
  · rw [hr, h]

/-- Settles O34: kind by kind of instruction; an `EDGE.H` writes every field, but it clears neither SYNC nor READY. -/
theorem eachFieldHasOnlyItsWriters : Obligations.EachFieldHasOnlyItsWriters := by
  intro i s s' h
  obtain ⟨hparams, hinputs⟩ := exec_params_inputs h
  have hout : i.isCommand = false → s'.out = s.out := fun hi => exec_out_of_not_command hi h
  obtain ⟨t, rfl, hx⟩ | ⟨t, rfl, hx⟩ | ⟨hi, hx⟩ | ⟨-, -, -, hx⟩ | ⟨rfl, hx⟩ := exec_core_cases h
  · simpa [hx, hparams, hinputs] using hout
  · have hsync : s.core.sync = true → s'.core.sync = true := fun hs => by simp [hx, edgeHBranch_sync, hs]
    have hready : s.core.ready = true → s'.core.ready = true := fun hr => by rw [hx]; exact edgeHBranch_keeps_ready hr
    simpa [hparams, hinputs] using ⟨hsync, hready, hout⟩
  · simpa [hx, hparams, hinputs] using ⟨fun _ => hi.imp_right .inl, hout⟩
  · simpa [hx, hparams, hinputs] using hout
  · simpa [hx, hparams, hinputs] using hout

/-! ### The state after power-up -/

/-- Settles O28: every field, and every parameter, as the tables of R12 and R6 have it. -/
theorem powerUpState : Obligations.PowerUpState :=
  ⟨rfl, phase_idle_iff.2 rfl, rfl, rfl, rfl, rfl, rfl, rfl, valid_iff.2 (by decide)⟩

/-! ### REF is hidden from the host -/

theorem sameButRef_iff {a b : CoreState} : SameButRef a b ↔ ∃ r, b = { a with ref := r } := by
  constructor
  · rintro ⟨h₁, h₂, h₃, h₄, h₅⟩
    exact ⟨b.ref, by rw [h₁, h₂, h₃, h₄, h₅]⟩
  · rintro ⟨r, rfl⟩
    exact ⟨rfl, rfl, rfl, rfl, rfl⟩

/-- Machines whose cores differ in REF alone answer a transaction alike: no response reads REF, and READY is cleared in both or in neither (R13, R46). -/
theorem exec_command_hides_ref {i : Instr} {s₁ s₂ : State} (hi : i.isCommand = true) (hc : SameButRef s₁.core s₂.core)
    (ho : s₁.out = s₂.out) :
    ∃ t₁ t₂, exec i s₁ = .next t₁ ∧ exec i s₂ = .next t₂ ∧ t₁.out = t₂.out ∧ SameButRef t₁.core t₂.core := by
  obtain ⟨p₁, c, x₁, o⟩ := s₁
  obtain ⟨p₂, c₂, x₂, o₂⟩ := s₂
  obtain rfl : o = o₂ := ho
  obtain ⟨r, rfl⟩ : ∃ r, c₂ = { c with ref := r } := sameButRef_iff.1 hc
  cases i with
  | edgeL _ => cases hi
  | edgeH _ => cases hi
  | reset => cases hi
  | _ => exact ⟨_, _, rfl, rfl, rfl, sameButRef_iff.2 ⟨r, rfl⟩⟩

/-- Settles O22: by induction over the transactions, each answered alike. -/
theorem referenceTimeIsHiddenFromHost : Obligations.ReferenceTimeIsHiddenFromHost := by
  intro is
  induction is with
  | nil =>
    intro s₁ s₂ s₁' s₂' _ hc ho h₁ h₂
    cases h₁
    cases h₂
    exact ⟨ho, hc⟩
  | cons i is ih =>
    intro s₁ s₂ s₁' s₂' his hc ho h₁ h₂
    obtain ⟨hi, his⟩ := List.forall_mem_cons.1 his
    obtain ⟨t₁, t₂, hx₁, hx₂, ho', hc'⟩ := exec_command_hides_ref hi hc ho
    rw [runAll, hx₁] at h₁
    rw [runAll, hx₂] at h₂
    exact ih t₁ t₂ s₁' s₂' his hc' ho' h₁ h₂

end Sys2Proof.Machine
end

section
/-! What the past of a run determines: an equation per kind of instruction for each function of a past, and that the machine agrees with them (R13 to R18, R55 to R58, R72). -/

namespace Sys2Proof.Machine

/-- What a capture stores, as one formula (R56, R60 (c)). -/
theorem channelVal_eq_max_min {p : Params} (hp : p.valid = true) (d : Nat) :
    channelVal p d = max p.clampLo (min p.clampHi d) := by
  have hle := (valid_iff.1 hp).2.1
  rw [channelVal_eq_clamp hp, clamp]
  split <;> [skip; split] <;> omega

/-- A past, the newest first, with one instruction more is a run with that instruction at its end (R34). -/
theorem runAll_reverse_cons {i : Instr} {past : List Instr} {s s' s₀ : State} (h : runAll past.reverse s₀ = .next s)
    (hx : exec i s = .next s') : runAll (i :: past).reverse s₀ = .next s' := by
  rw [List.reverse_cons, runAll_append, h, andThen_next, runAll, hx]
  rfl

namespace Past

variable {p : Params} {t : Nat} {past : List Instr} {i : Instr}

/-! ### Host transactions in a past -/

/-- A host transaction is none of the inputs that these functions look for, but for the two that clear READY (R65). -/
theorem functions_command (h : i.isCommand = true) :
    lastEdge (i :: past) = lastEdge past ∧ pulses p (i :: past) = pulses p past ∧
    (∀ k, newestAt p k (i :: past) = newestAt p k past) ∧ completedAt p (i :: past) = completedAt p past ∧
    (i ≠ .clrReady → i ≠ .take → untaken p (i :: past) = untaken p past) := by
  cases i with
  | edgeL _ | edgeH _ | reset => cases h
  | clrReady => exact ⟨rfl, rfl, fun _ => rfl, rfl, fun hc _ => absurd rfl hc⟩
  | take => exact ⟨rfl, rfl, fun _ => rfl, rfl, fun _ ht => absurd rfl ht⟩
  | _ => exact ⟨rfl, rfl, fun _ => rfl, rfl, fun _ _ => rfl⟩

/-! ### EDGE.H in a past: a sync gap, a capture, a completion -/

theorem pulses_edgeH_gap (h : p.syncTh < duration p t past) : pulses p (.edgeH t :: past) = some [] :=
  if_pos h

theorem pulses_edgeH_pulse (h : ¬ p.syncTh < duration p t past) :
    pulses p (.edgeH t :: past) = (pulses p past).map (duration p t past :: ·) :=
  if_neg h

theorem newestAt_edgeH_capture {k : Nat} (h : isCaptureAt p k t past) :
    newestAt p k (.edgeH t :: past) = max p.clampLo (min p.clampHi (duration p t past)) :=
  if_pos h

theorem newestAt_edgeH_other {k : Nat} (h : ¬ isCaptureAt p k t past) : newestAt p k (.edgeH t :: past) = newestAt p k past :=
  if_neg h

/-- The sixth capture, without the bound on the index that holds of 5 anyway. -/
theorem completes_iff : completes p t past ↔ ¬ p.syncTh < duration p t past ∧ (pulses p past).map List.length = some 5 := by
  simp [completes, isCaptureAt]

theorem completedAt_edgeH_completes (h : completes p t past) : completedAt p (.edgeH t :: past) = t :=
  if_pos (completes_iff.1 h)

theorem completedAt_edgeH_other (h : ¬ completes p t past) : completedAt p (.edgeH t :: past) = completedAt p past :=
  if_neg (mt completes_iff.2 h)

theorem untaken_edgeH_completes (h : completes p t past) : untaken p (.edgeH t :: past) = true :=
  if_pos (completes_iff.1 h)

theorem untaken_edgeH_other (h : ¬ completes p t past) : untaken p (.edgeH t :: past) = untaken p past :=
  if_neg (mt completes_iff.2 h)

/-- The time of the newest edge is a TIME_W-bit value, as every time received is (R41). -/
theorem lastEdge_lt (h : ∀ j ∈ past, j.wellFormed p = true) : lastEdge past < 2 ^ p.timeW := by
  induction past with
  | nil => exact Nat.two_pow_pos _
  | cons i past ih =>
    obtain ⟨hi, hpast⟩ := List.forall_mem_cons.1 h
    cases i with
    | edgeL t => exact isTime_iff.1 hi
    | edgeH t => exact isTime_iff.1 hi
    | reset => exact Nat.two_pow_pos _
    | _ => exact ih hpast

/-! ### The machine and the past, for one instruction -/

/-- CORE's reset state is what the empty past determines (R96). -/
theorem agrees_nil {s : State} (hp : s.params = p) (hc : s.core = CoreState.reset) : Agrees p [] s where
  params := hp
  ref    := by rw [hc]; rfl
  sync   := by rw [hc]; rfl
  idx    := by rw [hc]; rfl
  ready  := by rw [hc]; rfl
  lastt  := by rw [hc]; rfl
  buf    := fun k => by rw [hc]; fin_cases k <;> rfl

namespace Agrees

variable {s s' : State}

theorem reset (hp : s.params = p) (hc : s.core = CoreState.reset) : Agrees p (.reset :: past) s :=
  have ⟨hp, h₁, h₂, h₃, h₄, h₅, h₆⟩ := agrees_nil hp hc
  ⟨hp, h₁, h₂, h₃, h₄, h₅, h₆⟩

theorem edgeL (h : Agrees p past s) (ht : t < 2 ^ p.timeW) (hp : s'.params = s.params)
    (hc : s'.core = s.core.recordTime p t) : Agrees p (.edgeL t :: past) s' where
  params := hp.trans h.params
  ref    := by rw [hc]; exact timeVal_of_lt ht
  sync   := by rw [hc]; exact h.sync
  idx    := by rw [hc]; exact h.idx
  ready  := by rw [hc]; exact h.ready
  lastt  := by rw [hc]; exact h.lastt
  buf    := by rw [hc]; exact h.buf

/-- No transaction writes a field but READY, so the agreement stays where READY becomes what the longer past determines (R65). -/
theorem command (h : Agrees p past s) (hi : i.isCommand = true) (hp : s'.params = s.params)
    (hc : s'.core = { s.core with ready := untaken p (i :: past) }) : Agrees p (i :: past) s' := by
  obtain ⟨href, hpulses, hnewest, hcompleted, -⟩ := functions_command (p := p) (past := past) hi
  exact {
    params := hp.trans h.params
    ref    := by rw [hc, href]; exact h.ref
    sync   := by rw [hc, hpulses]; exact h.sync
    idx    := by rw [hc, hpulses]; exact h.idx
    ready  := by rw [hc]
    lastt  := by rw [hc, hcompleted]; exact h.lastt
    buf    := fun k => by rw [hnewest, hc]; exact h.buf k }

/-- The duration that the machine computes is the one that the past measures (R52). -/
theorem subW_ref (h : Agrees p past s) (hwf : ∀ j ∈ past, j.wellFormed p = true) (t : Nat) :
    subW p t s.core.ref = duration p t past := by
  rw [h.ref, subW_eq_mod (lastEdge_lt hwf).le]
  rfl

/-- The machine captures at an index exactly where the past says so (R56). -/
theorem isCaptureAt_iff (h : Agrees p past s) {k : Nat} (hk : k < 6) :
    isCaptureAt p k t past ↔ duration p t past ≤ p.syncTh ∧ s.core.sync = true ∧ s.core.idx.toNat = k := by
  rw [isCaptureAt, h.sync, h.idx, Nat.not_lt]
  cases pulses p past with
  | none => simp
  | some l =>
    simp only [Option.map_some, Option.some.injEq, Option.isSome_some, true_and, Option.getD_some]
    omega

theorem edgeH (hvalid : p.valid = true) (h : Agrees p past s) (ht : t < 2 ^ p.timeW) (hp : s'.params = s.params)
    (hc : s'.core = (s.core.recordTime p t).edgeHBranch p t (duration p t past)) : Agrees p (.edgeH t :: past) s' where
  params := hp.trans h.params
  ref    := by rw [hc, edgeHBranch_ref]; exact timeVal_of_lt ht
  sync   := by
    rw [hc, edgeHBranch_sync, CoreState.recordTime_sync, h.sync]
    by_cases hd : p.syncTh < duration p t past
    · simp [pulses_edgeH_gap, hd]
    · simp [pulses_edgeH_pulse, hd]
  idx    := by
    rw [hc, edgeHBranch_idx, CoreState.recordTime_sync, CoreState.recordTime_idx, h.sync, h.idx]
    by_cases hd : p.syncTh < duration p t past
    · simp [pulses_edgeH_gap, hd]
    · rw [pulses_edgeH_pulse hd, if_neg hd]
      cases pulses p past with
      | none => simp
      | some l =>
        simp only [Option.isSome_some, true_and, Option.getD_some, Option.map_some, List.length_cons]
        split <;> omega
  ready  := by
    obtain ⟨hd, hs, hi, hr, -⟩ | ⟨hn, hr, -⟩ := edgeHBranch_completion p t (duration p t past) (s.core.recordTime p t)
    · rw [hc, hr, untaken_edgeH_completes ((h.isCaptureAt_iff (by decide)).2 ⟨hd, hs, hi⟩)]
    · rw [hc, hr, untaken_edgeH_other (mt (h.isCaptureAt_iff (by decide)).1 hn)]
      exact h.ready
  lastt  := by
    obtain ⟨hd, hs, hi, -, hl⟩ | ⟨hn, -, hl⟩ := edgeHBranch_completion p t (duration p t past) (s.core.recordTime p t)
    · rw [hc, hl, completedAt_edgeH_completes ((h.isCaptureAt_iff (by decide)).2 ⟨hd, hs, hi⟩), timeVal_of_lt ht]
    · rw [hc, hl, completedAt_edgeH_other (mt (h.isCaptureAt_iff (by decide)).1 hn)]
      exact h.lastt
  buf    := fun k => by
    rw [hc]
    refine (edgeHBranch_buf p t (duration p t past) (s.core.recordTime p t) k k.isLt).trans ?_
    rw [CoreState.recordTime_sync, CoreState.recordTime_idx]
    by_cases hk : isCaptureAt p k t past
    · rw [newestAt_edgeH_capture hk, if_pos ((h.isCaptureAt_iff k.isLt).1 hk), channelVal_eq_max_min hvalid]
    · rw [newestAt_edgeH_other hk, if_neg (mt (h.isCaptureAt_iff k.isLt).2 hk)]
      exact h.buf k

/-- One instruction more, in the machine and in the past. -/
theorem of_exec (hvalid : p.valid = true) (hwf : ∀ j ∈ past, j.wellFormed p = true) (hi : i.wellFormed p = true)
    (h : Agrees p past s) (hx : exec i s = .next s') : Agrees p (i :: past) s' := by
  have hparams := (exec_params_inputs hx).1
  obtain ⟨t, rfl, hc⟩ | ⟨t, rfl, hc⟩ | ⟨rfl | rfl, hc⟩ | ⟨hcmd, hclr, htake, hc⟩ | ⟨rfl, hc⟩ := exec_core_cases hx
  · rw [h.params] at hc
    exact h.edgeL (isTime_iff.1 hi) hparams hc
  · rw [h.params, h.subW_ref hwf] at hc
    exact h.edgeH hvalid (isTime_iff.1 hi) hparams hc
  · exact h.command rfl hparams hc
  · exact h.command rfl hparams hc
  · obtain ⟨-, -, -, -, huntaken⟩ := functions_command (p := p) (past := past) hcmd
    exact h.command hcmd hparams (by rw [hc, huntaken hclr htake, ← h.ready])
  · exact reset (hparams.trans h.params) hc

end Agrees

/-! ### A run from reset -/

/-- After a run from reset the machine's fields are what the past determines. -/
theorem run_agrees (hvalid : p.valid = true) (hwf : ∀ j ∈ past, j.wellFormed p = true) :
    ∃ s, runAll past.reverse (State.resetWith p) = .next s ∧ Agrees p past s := by
  induction past with
  | nil => exact ⟨_, rfl, agrees_nil rfl rfl⟩
  | cons i past ih =>
    obtain ⟨hi, hpast⟩ := List.forall_mem_cons.1 hwf
    obtain ⟨s, hs, hagrees⟩ := ih hpast
    obtain ⟨s', hx⟩ := exec_total i s
    exact ⟨s', runAll_reverse_cons hs hx, hagrees.of_exec hvalid hpast hi hx⟩

theorem agrees_of_run {s : State} (hvalid : p.valid = true) (hwf : ∀ j ∈ past, j.wellFormed p = true)
    (h : runAll past.reverse (State.resetWith p) = .next s) : Agrees p past s := by
  obtain ⟨s₁, h₁, hagrees⟩ := run_agrees hvalid hwf
  cases h.symm.trans h₁
  exact hagrees

/-- The newest capture at an index already passed since the sync gap is the pulse of that number (R56, R61). -/
theorem newestAt_of_pulses {l : List Nat} (h : pulses p past = some l) {k : Nat} (hk : k < l.length) (hk6 : k < 6) :
    newestAt p k past = max p.clampLo (min p.clampHi (l.reverse.getD k 0)) := by
  induction past generalizing l with
  | nil => cases h
  | cons i past ih =>
    cases i with
    | edgeH t =>
      by_cases hd : p.syncTh < duration p t past
      · cases (pulses_edgeH_gap hd).symm.trans h
        cases hk
      · rw [pulses_edgeH_pulse hd] at h
        obtain ⟨l, hl, rfl⟩ := Option.map_eq_some_iff.1 h
        rw [List.reverse_cons]
        obtain hlt | rfl := Nat.lt_succ_iff_lt_or_eq.1 hk
        · have hother : ¬ isCaptureAt p k t past := by simp [isCaptureAt, hl, hlt.ne']
          rw [newestAt_edgeH_other hother, List.getD_append _ _ _ _ (by simpa using hlt)]
          exact ih hl hlt
        · have hcapture : isCaptureAt p l.length t past := ⟨hd, hk6, by simp [hl]⟩
          rw [newestAt_edgeH_capture hcapture, List.getD_append_right _ _ _ _ (by simp)]
          simp
    | reset => cases h
    | _ => exact ih h hk

end Past

/-- Settles O57: the empty past and the reset state, and one instruction more, kind by kind. -/
theorem everyInstructionKeepsAgreementWithPast : Obligations.EveryInstructionKeepsAgreementWithPast := by
  refine ⟨fun _ => Past.agrees_nil rfl rfl, fun p past i s hvalid hwf hi h => ?_⟩
  obtain ⟨s', hx⟩ := exec_total i s
  exact ⟨s', hx, h.of_exec hvalid hwf hi hx⟩

/-- Settles O41: the agreement holds of the reset state, and every instruction of the run keeps it. -/
theorem pastDeterminesEveryField : Obligations.PastDeterminesEveryField := by
  intro p past hvalid hwf
  obtain ⟨s, hs, -, href, hsync, hidx, hready, hlastt, hbuf⟩ := Past.run_agrees hvalid hwf
  exact ⟨s, hs, href, hsync, hidx, hready, hlastt, hbuf⟩

/-- Settles O43: the machine agrees with its past after the completing event too, and there the six newest captures are the six pulses since the sync gap. -/
theorem completedFrameIsWholeAndStamped : Obligations.CompletedFrameIsWholeAndStamped := by
  intro p past t s s' hvalid hwf ht hs hx hcomp
  have hagrees : Past.Agrees p (.edgeH t :: past) s' :=
    (Past.agrees_of_run hvalid hwf hs).of_exec hvalid hwf (isTime_iff.2 ht) hx
  obtain ⟨hd, hlen⟩ := Past.completes_iff.1 hcomp
  obtain ⟨l, hl, hl5⟩ := Option.map_eq_some_iff.1 hlen
  have hpulses : Past.pulses p (.edgeH t :: past) = some (Past.duration p t past :: l) := by
    rw [Past.pulses_edgeH_pulse hd, hl]
    rfl
  have hlength : (Past.duration p t past :: l).length = 6 := by rw [List.length_cons, hl5]
  refine ⟨_, hpulses, hlength, ?_, ?_, fun k => ?_⟩
  · rw [hagrees.ready, Past.untaken_edgeH_completes hcomp]
  · rw [hagrees.lastt, Past.completedAt_edgeH_completes hcomp]
  · rw [hagrees.buf, Past.newestAt_of_pulses hpulses (by omega) k.isLt]

end Sys2Proof.Machine
end

section
/-! The order in which inputs take effect, and what it means to repeat a transaction (R31 to R34, R64, R87). -/

namespace Sys2Proof

/-! ### An encoded input decodes to its instruction -/

/-- The word of a host transaction decodes to it, with every value of the bits that its row leaves free (R42, R43). -/
theorem encode_command (p : Params) {i : Instr} (h : i.isCommand = true) : ∃ c, encode p i = .cmd8 c ∧ decodeCmd c = i := by
  cases i with
  | edgeL t => cases h
  | edgeH t => cases h
  | reset => cases h
  | _ => exact ⟨_, rfl, by decide +revert⟩

theorem decode_encodeEvt {p : Params} {t : Nat} (lvl : Bool) (h : p.isTime t = true) :
    decode p (.evt (encodeEvt p lvl t)) = .ok (if lvl then .edgeH t else .edgeL t) := by
  rw [decode, if_pos (Laws.EncodeFits.encodeEvt_lt lvl h), decodeEvt_encodeEvt lvl (isTime_iff.1 h)]

/-- By the input's port: an edge event, a command word or the reset input (R40). -/
theorem decode_encode {p : Params} {i : Instr} (h : i.wellFormed p = true) : decode p (encode p i) = .ok i := by
  cases hc : i.isCommand with
  | true =>
    obtain ⟨c, henc, hdec⟩ := encode_command p hc
    rw [henc, decode, hdec]
  | false =>
    cases i with
    | edgeL t => exact decode_encodeEvt false h
    | edgeH t => exact decode_encodeEvt true h
    | reset => rfl
    | _ => cases hc

namespace Machine

/-! ### The orders that an instant admits -/

/-- Without a reset, an edge and a transaction go in either order (R34, R87 (b)). -/
theorem Instant.mem_orders_iff {x : Instant} (h : x.rst = false) {o : List Input} :
    o ∈ x.orders ↔ o = x.edges ++ x.commands ∨ o = x.commands ++ x.edges := by
  simp [Instant.orders, h]

/-- The instant at which one input is ready and no other. -/
def Instant.single : Input → Instant
  | .evt w => { rst := false, evt := some w, cmd := none }
  | .cmd8 c => { rst := false, evt := none, cmd := some c }
  | .rst => { rst := true, evt := none, cmd := none }

theorem Instant.mem_orders_single (x : Input) : [x] ∈ (Instant.single x).orders := by
  cases x with
  | evt w => exact (Instant.mem_orders_iff rfl).2 (.inl rfl)
  | cmd8 c => exact (Instant.mem_orders_iff rfl).2 (.inl rfl)
  | rst => exact List.mem_cons_self

/-- Inputs that are each ready at an instant of their own take effect in the order of the instants. -/
theorem admits_map_single (xs : List Input) : Admits (xs.map Instant.single) xs := by
  induction xs with
  | nil => exact .nil
  | cons x xs ih => exact .cons (Instant.mem_orders_single x) ih

/-! ### What a transaction answers -/

theorem exec_clrReady (s : State) :
    exec .clrReady s = .next ((s.setCore s.core.clearReady).respond { ok := true, payload := .empty }) := rfl

theorem exec_take (s : State) :
    exec .take s = .next ((s.setCore s.core.clearReady).respond { ok := true, payload := .take s.core.ready s.core.buf }) := rfl

/-- A transaction that only reads adds its response to what the host has received, and the response is determined by CORE (R66, R68, R70). -/
theorem exec_read {i : Instr} (h : i ∈ [Instr.rdStatus, Instr.snap, Instr.rdLastt]) (c : CoreState) :
    ∃ r, ∀ s : State, s.core = c → exec i s = .next (s.respond r) := by
  simp only [List.mem_cons, List.not_mem_nil, or_false] at h
  obtain rfl | rfl | rfl := h
  · exact ⟨{ ok := true, payload := .status (statusWord c) }, by rintro s rfl; rfl⟩
  · exact ⟨{ ok := true, payload := .snap c.buf }, by rintro s rfl; rfl⟩
  · exact ⟨{ ok := true, payload := .lastt c.lastt }, by rintro s rfl; rfl⟩

/-- A reserved word is answered and nothing else happens, whatever its free bits are (R71). -/
theorem exec_reserved {i : Instr} (h : i.isReserved = true) (s : State) : exec i s = .next s.respondReserved := by
  cases i with
  | edgeL _ | edgeH _ | rdStatus | clrReady | snap | take | rdLastt | reset => cases h
  | _ => rfl

theorem runAll_pair {i j : Instr} {s s₁ s₂ : State} (hi : exec i s = .next s₁) (hj : exec j s₁ = .next s₂) :
    runAll [i, j] s = .next s₂ := by
  rw [runAll, hi, andThen_next, runAll, hj, andThen_next, runAll]

/-! ### The obligations -/

/-- Settles O39: by induction over the queue. A step takes the first input, which decodes to the first instruction; what that writes does not depend on the inputs behind
it, and the invariants hold again. -/
theorem queuedInputsRunInOrder : Obligations.QueuedInputsRunInOrder := by
  intro s is
  induction is generalizing s with
  | nil =>
    intro hs _ hq
    refine ⟨s, rfl, ?_, hs⟩
    rw [runAll, ← List.map_nil, ← hq]
  | cons i is ih =>
    intro hs hwf hq
    obtain ⟨hi, his⟩ := List.forall_mem_cons.1 hwf
    obtain ⟨c, o, hqueued, halone⟩ := exec_ignores_inputs i { s with inputs := is.map (encode s.params) } []
    have hstep := (step_of_decode_ok hs.params_valid hs.idx_le hq (decode_encode hi)).trans hqueued
    obtain ⟨s', hsteps, hrun, hs'⟩ := ih _ (everyStepKeepsInvariants _ _ hs hstep) his rfl
    refine ⟨s', ?_, ?_, hs'⟩
    · rw [List.length_cons, stepN, hstep, andThen_next, hsteps]
    · rw [runAll, halone, andThen_next, hrun]

/-- Settles O40: any list is the order of instants with one input each; and an instant with an edge and a transaction has both orders. -/
theorem everyInputOrderIsAdmitted : Obligations.EveryInputOrderIsAdmitted := by
  refine ⟨fun xs => ⟨_, admits_map_single xs⟩, fun w c is rest h => ⟨?_, ?_⟩⟩
  · exact .cons ((Instant.mem_orders_iff rfl).2 (.inl rfl)) h
  · exact .cons ((Instant.mem_orders_iff rfl).2 (.inr rfl)) h

/-- Settles O20: what each kind of transaction answers, applied twice. -/
theorem repeatedTransactions : Obligations.RepeatedTransactions := by
  refine fun s => ⟨fun i hi => ?_, ?_, ?_, fun i hi => ⟨_, exec_reserved hi s, rfl⟩⟩
  · obtain ⟨r, hr⟩ := exec_read hi s.core
    exact ⟨_, r, runAll_pair (hr s rfl) (hr (s.respond r) rfl), rfl, by simp⟩
  · exact ⟨_, _, exec_clrReady s, rfl, exec_clrReady _, rfl⟩
  · exact ⟨_, s.core.buf, runAll_pair (exec_take s) (exec_take _), by simp, rfl⟩

/-- Settles O32: the branch of a step whose queue is empty. -/
theorem stepWaitsWithoutInput : Obligations.StepWaitsWithoutInput :=
  fun _ hv hi hx => step_of_nil hv hi hx

end Machine

end Sys2Proof
end

section
/-! The encoding (30_encoding.md): both directions of the correspondence between inputs and instructions, the command-code map, the packed payloads, and `PULSE` (R41 to R50). -/

namespace Sys2Proof

/-! ### Both directions of the encoding (R41 to R48) -/

/-- An input decodes exactly where its bits fit its format (R47, R48). -/
theorem fits_iff_decodes {p : Params} {x : Input} : x.fits p = true ↔ ∃ i, decode p x = .ok i := by
  refine ⟨Machine.decode_of_fits, fun ⟨i, h⟩ => ?_⟩
  cases x with
  | evt w =>
    by_contra hw
    rw [fits_evt_iff, Nat.not_lt] at hw
    simp [Machine.decode_evt_tooWide hw] at h
  | cmd8 c => rfl
  | rst => rfl

theorem wellFormed_of_isCommand (p : Params) {i : Instr} (h : i.isCommand = true) : i.wellFormed p = true := by
  cases i with
  | edgeL _ | edgeH _ | reset => cases h
  | _ => rfl

/-- No command word depends on the parameters (R42). -/
theorem encode_command_params (p q : Params) {i : Instr} (h : i.isCommand = true) : encode p i = encode q i := by
  cases i with
  | edgeL _ | edgeH _ | reset => cases h
  | _ => rfl

/-- The rows of the command-code map cover the 256 words without overlap: every word is the word of the instruction it decodes to (R43, R47). -/
theorem encode_decodeCmd (p : Params) (c : Byte) : encode p (decodeCmd c) = .cmd8 c := by
  rw [encode_command_params p Params.default (decodeCmd_isCommand c)]
  decide +revert

/-- An edge word is its level bit above its time (R41). -/
theorem encodeEvt_level_time {p : Params} {w : Nat} (h : w < 2 ^ p.evtW) :
    encodeEvt p (w.testBit p.timeW) (w % 2 ^ p.timeW) = w := by
  have hlevel : w / 2 ^ p.timeW < 2 := Nat.div_lt_of_lt_mul (by rwa [← Nat.pow_succ, Nat.succ_eq_one_add])
  have hsplit := Nat.div_add_mod w (2 ^ p.timeW)
  rw [encodeEvt, Nat.testBit_eq_decide_div_mod_eq, Nat.mod_eq_of_lt hlevel]
  interval_cases w / 2 ^ p.timeW <;> simpa using hsplit

theorem encode_decodeEvt {p : Params} {w : Nat} (h : w < 2 ^ p.evtW) : encode p (decodeEvt p w) = .evt w := by
  have hw := encodeEvt_level_time h
  cases hl : w.testBit p.timeW <;> simpa [decodeEvt, encode, hl] using hw

/-- By the input's port: what decodes is well formed and encodes to that input (R47). -/
theorem encode_of_decode {p : Params} {x : Input} {i : Instr} (h : decode p x = .ok i) : i.wellFormed p = true ∧ encode p i = x := by
  cases x with
  | evt w =>
    have hw := fits_evt_iff.1 (fits_iff_decodes.2 ⟨i, h⟩)
    rw [decode, if_pos hw] at h
    cases h
    exact ⟨decodeEvt_wellFormed p w, encode_decodeEvt hw⟩
  | cmd8 c =>
    cases h
    exact ⟨wellFormed_of_isCommand p (decodeCmd_isCommand c), encode_decodeCmd p c⟩
  | rst =>
    cases h
    exact ⟨rfl, rfl⟩

/-- Settles O45: decoding inverts encoding port by port, and what decodes fits its format. -/
theorem decodeInvertsEncode : Obligations.DecodeInvertsEncode :=
  fun _ _ h => ⟨decode_encode h, fits_iff_decodes.2 ⟨_, decode_encode h⟩⟩

/-- Settles O46: encoding inverts decoding port by port, and only an edge word that is too wide does not decode. -/
theorem encodeInvertsDecode : Obligations.EncodeInvertsDecode :=
  fun _ _ => ⟨fun _ h => encode_of_decode h, fits_iff_decodes⟩

/-! ### The command-code map (R43, R47) -/

/-- Exactly the words from `0x05` on are reserved (R43). -/
theorem decodeCmd_isReserved_iff {c : Byte} : (decodeCmd c).isReserved = true ↔ 5 ≤ c.toNat := by
  decide +revert

/-- R43's own words on legality, of the fields `z` and `op`, say that the word is less than `0x05`. -/
theorem legal_fields_iff {c : Byte} : c.extractLsb' 4 4 = 0#4 ∧ (c.extractLsb' 0 4).toNat ≤ 4 ↔ c.toNat < 5 := by
  decide +revert

theorem decodeCmd_legal_iff {c : Byte} :
    (decodeCmd c).isReserved = false ↔ c.extractLsb' 4 4 = 0#4 ∧ (c.extractLsb' 0 4).toNat ≤ 4 := by
  rw [legal_fields_iff, ← Nat.not_le, ← decodeCmd_isReserved_iff, Bool.not_eq_true]

/-- Settles O47: legality by its two fields, and the five assigned codes. -/
theorem commandCodeMap : Obligations.CommandCodeMap :=
  ⟨fun _ => decodeCmd_legal_iff, rfl, rfl, rfl, rfl, rfl, decodeCmd_isCommand⟩

/-- Settles O48: the reserved words are those from `0x05` to `0xFF`. -/
theorem reservedWordCount : Obligations.ReservedWordCount := by
  have hreserved : ∀ n ∈ List.range 256, (decodeCmd (BitVec.ofNat 8 n)).isReserved = decide (5 ≤ n) := fun n hn => by
    rw [Bool.eq_iff_iff, decodeCmd_isReserved_iff, BitVec.toNat_ofNat, Nat.mod_eq_of_lt (List.mem_range.1 hn), decide_eq_true_iff]
  rw [Obligations.ReservedWordCount, List.filter_congr hreserved, ← List.Ico.zero_bot, List.Ico.filter_le, List.Ico.length]
  rfl

/-- Settles O49: each word is evaluated by the decoder. -/
theorem sampleWordsDecode : Obligations.SampleWordsDecode :=
  ⟨rfl, rfl, rfl, rfl, rfl, rfl, rfl⟩

namespace Machine

/-- Settles O19: the step decodes the word to a transaction, which answers once and may only clear READY; `ok` is legality by the code map. -/
theorem everyCommandWordIsAnsweredOnce : Obligations.EveryCommandWordIsAnsweredOnce := by
  intro s c rest hv hi hx
  obtain ⟨s', r, hexec, -, hinputs, hout, hok, hcore, hready⟩ := exec_command { s with inputs := rest } (decodeCmd_isCommand c)
  refine ⟨s', r, (step_of_decode_ok hv hi hx rfl).trans hexec, hinputs, hout, ?_, ?_⟩
  · rw [hok, Bool.not_eq_true', decodeCmd_legal_iff]
  · rw [hcore]
    exact ⟨rfl, rfl, rfl, rfl, rfl, hready⟩

/-! ### The packed payloads (R46) -/

theorem pwVal_lt (p : Params) (v : Nat) : pwVal p v < 2 ^ p.pwW :=
  Nat.mod_lt _ (Nat.two_pow_pos _)

theorem pwVal_of_lt {p : Params} {v : Nat} (h : v < 2 ^ p.pwW) : pwVal p v = v :=
  Nat.mod_eq_of_lt h

/-- The channel values are the digits of the packed number in base `2^PW_W`, `v[0]` the lowest. -/
theorem packChannels_eq_ofDigits (p : Params) (v : Vector Nat 6) :
    packChannels p v = Nat.ofDigits (2 ^ p.pwW) (v.toList.map (pwVal p)) := by
  rw [Nat.ofDigits_eq_foldr, List.foldr_map]
  rfl

theorem channel_digit_lt (p : Params) (v : Vector Nat 6) : ∀ x ∈ v.toList.map (pwVal p), x < 2 ^ p.pwW := by
  simp only [List.forall_mem_map]
  exact fun x _ => pwVal_lt p x

/-- `v[i]` stands at bits `PW_W*i` and up (R46). -/
theorem packChannels_div_mod (p : Params) (v : Vector Nat 6) (i : Nat) (hi : i < 6) :
    packChannels p v / 2 ^ (p.pwW * i) % 2 ^ p.pwW = pwVal p v[i] := by
  rw [packChannels_eq_ofDigits, pow_mul, Nat.ofDigits_div_pow_eq_ofDigits_drop i (Nat.two_pow_pos _) _ (channel_digit_lt p v),
    List.drop_eq_getElem_cons (by simpa using hi), Nat.ofDigits_cons, Nat.add_mul_mod_self_left]
  simpa using Nat.mod_eq_of_lt (pwVal_lt p v[i])

theorem packChannels_lt (p : Params) (v : Vector Nat 6) : packChannels p v < 2 ^ (nCh * p.pwW) := by
  have hmod := Nat.ofDigits_mod_pow_eq_ofDigits_take 6 (Nat.two_pow_pos _) _ (channel_digit_lt p v)
  rw [List.take_of_length_le (by simp), ← packChannels_eq_ofDigits, ← pow_mul, mul_comm] at hmod
  exact Nat.mod_eq_iff_lt (Nat.two_pow_pos _).ne' |>.1 hmod

/-- Every payload fits its width, whatever its values (R30, R46). -/
theorem Payload.pack_lt (p : Params) (q : Payload) : q.pack p < 2 ^ q.width p := by
  cases q with
  | empty => exact Nat.zero_lt_one
  | status b => exact b.isLt
  | snap v => exact packChannels_lt p v
  | take w v =>
    have hv := packChannels_lt p v
    rw [Payload.pack, Payload.width, Nat.pow_add]
    split <;> omega
  | lastt t => exact timeVal_lt p t

/-- Without its bit 0, a packed TAKE is a packed SNAP of the same values (R46). -/
theorem Payload.take_pack_div_two (p : Params) (w : Bool) (v : Vector Nat 6) :
    (Payload.take w v).pack p / 2 = (Payload.snap v).pack p := by
  simp only [Payload.pack]
  split <;> omega

theorem Payload.take_pack_mod_two (p : Params) (w : Bool) (v : Vector Nat 6) :
    (Payload.take w v).pack p % 2 = if w then 1 else 0 := by
  simp only [Payload.pack]
  split <;> omega

/-- Settles O26: the channels are the digits of the packed number, one bit higher in a TAKE. -/
theorem packedPayloadLayout : Obligations.PackedPayloadLayout := by
  intro p v w b t hv ht
  have hsnap : ∀ i : Fin 6, (Payload.snap v).pack p / 2 ^ (p.pwW * i) % 2 ^ p.pwW = v[i] := fun i =>
    (packChannels_div_mod p v i i.isLt).trans (pwVal_of_lt (hv i))
  refine ⟨hsnap, fun i => ?_, Payload.take_pack_mod_two p w v, rfl, timeVal_of_lt ht, fun q _ => q.pack_lt p⟩
  rw [Nat.pow_add, pow_one, ← Nat.div_div_eq_div_mul, Payload.take_pack_div_two, hsnap]

/-! ### The pseudo-instruction `PULSE` (R50) -/

/-- A residue given over the integers is `sub_W` (R10, R52). -/
theorem eq_subW_of_cast {p : Params} {a b d : Nat} (h : (d : Int) = ((a : Int) - (b : Int)) % (2 : Int) ^ p.timeW) :
    d = subW p a b := by
  have hcast := subW_cast p a b
  push_cast at hcast
  exact_mod_cast h.trans hcast.symm

/-- `PULSE tf, tr` records `tf` and then takes the branch of an `EDGE.H tr` whose duration is the width between the two (R50, R52). -/
theorem runAll_pulse (s : State) (tr : Nat) {tf : Nat} (hf : tf < 2 ^ s.params.timeW) :
    runAll (AsmLine.expand (.pulse tf tr)) s =
      .next (s.setCore (((s.core.recordTime s.params tf).recordTime s.params tr).edgeHBranch s.params tr (subW s.params tr tf))) := by
  rw [AsmLine.expand, runAll_pair rfl rfl]
  simp only [State.setCore_core, State.setCore_params, CoreState.recordTime_ref, timeVal_of_lt hf]
  rfl

/-- Settles O10: the branch of the `EDGE.H` is a capture, whose three writes are read field by field. -/
theorem pulseMeasuresItsWidth : Obligations.PulseMeasuresItsWidth := by
  intro s tf tr w k hp hf hr hw hle hsync hk hk6
  rw [eq_subW_of_cast hw] at hle ⊢
  refine ⟨_, runAll_pulse s tr hf, ?_, ?_, ?_⟩
  · simp [edgeHBranch_ref, timeVal_of_lt hr]
  · simp [edgeHBranch_idx, Nat.not_lt.2 hle, hsync, hk, hk6]
  · simp [edgeHBranch_buf, hle, hsync, hk, channelVal_eq_max_min hp]

end Machine

end Sys2Proof
end

section
/-! The edge decoder (40_edge_decoder.md): what each branch of an `EDGE.H` writes, the transition table of R59, and how a sync gap and six pulses assemble a frame (R51 to R61, R105). -/

namespace Sys2Proof.Machine

/-! ### The branches of EDGE.H -/

section Branches

variable {p : Params} {t d : Nat} {c : CoreState}

theorem edgeHBranch_of_gap (hd : p.syncTh < d) : c.edgeHBranch p t d = c.acquireSync :=
  if_pos (isSyncGap_iff.2 hd)

theorem edgeHBranch_of_ignored (hd : d ≤ p.syncTh) (h : c.sync = false ∨ 6 ≤ c.idx.toNat) : c.edgeHBranch p t d = c := by
  have hcap : ¬ c.canCapture = true := mt canCapture_iff.1 (not_captures_of_ignored h)
  rw [CoreState.edgeHBranch, if_neg (mt isSyncGap_iff.1 (Nat.not_lt.2 hd)), if_neg hcap]

/-- Every write of a capture at index `k`, with those that the sixth adds (R56, R57). -/
theorem edgeHBranch_of_capture (hd : d ≤ p.syncTh) (hs : c.sync = true) {k : Nat} (hk : c.idx.toNat = k) (hk6 : k < 6) :
    (c.edgeHBranch p t d).sync = true ∧ (c.edgeHBranch p t d).idx.toNat = k + 1 ∧
    (c.edgeHBranch p t d).buf[k] = channelVal p d ∧
    (∀ (j : Nat) (hj : j < 6), j ≠ k → (c.edgeHBranch p t d).buf[j] = c.buf[j]) ∧
    (c.edgeHBranch p t d).ready = (if k = 5 then true else c.ready) ∧
    (c.edgeHBranch p t d).lastt = (if k = 5 then timeVal p t else c.lastt) := by
  have hidx : (c.edgeHBranch p t d).idx.toNat = k + 1 := by
    rw [edgeHBranch_idx, if_neg (by omega), if_pos ⟨hs, by omega⟩, hk]
  have hcompletion : (c.edgeHBranch p t d).ready = (if k = 5 then true else c.ready) ∧
      (c.edgeHBranch p t d).lastt = (if k = 5 then timeVal p t else c.lastt) := by
    obtain ⟨-, -, h5, hr, hl⟩ | ⟨hn, hr, hl⟩ := edgeHBranch_completion p t d c
    · simp [hr, hl, hk.symm.trans h5]
    · have h5 : k ≠ 5 := fun h5 => hn ⟨hd, hs, hk.trans h5⟩
      simp [hr, hl, h5]
  refine ⟨by rw [edgeHBranch_sync, hs, Bool.or_true], hidx, ?_, fun j hj hjk => ?_, hcompletion⟩
  · rw [edgeHBranch_buf, if_pos ⟨hd, hs, hk⟩]
  · rw [edgeHBranch_buf, if_neg fun h => hjk (h.2.2.symm.trans hk)]

end Branches

/-- The next state after an `EDGE.H`, for a duration given as the residue of R52. -/
theorem exec_edgeH_of_residue {s : State} {t d : Nat} (hd : (d : Int) = ((t : Int) - (s.core.ref : Int)) % (2 : Int) ^ s.params.timeW) :
    exec (.edgeH t) s = .next (s.setCore ((s.core.recordTime s.params t).edgeHBranch s.params t d)) := by
  rw [eq_subW_of_cast hd]
  rfl

/-! ### One edge event: the obligations -/

/-- Settles O1: the one write of an `EDGE.L` is to REF, and a TIME_W-bit time is stored as it is. -/
theorem edgeLowRecordsTimeOnly : Obligations.EdgeLowRecordsTimeOnly :=
  fun _ _ ht => ⟨_, rfl, timeVal_of_lt ht, rfl, rfl, rfl, rfl, rfl, rfl, rfl, rfl⟩

/-- Settles O2: a longer duration takes the sync branch; any other one takes a branch that keeps SYNC and counts IDX up by at most one. -/
theorem edgeHighSyncGapRestartsFrame : Obligations.EdgeHighSyncGapRestartsFrame := by
  intro t s d ht hd
  refine ⟨_, exec_edgeH_of_residue hd, ?_, fun hgap => ?_, fun hle => ⟨?_, ?_⟩, rfl, rfl, rfl⟩
  · simp [edgeHBranch_ref, timeVal_of_lt ht]
  · simp [edgeHBranch_of_gap hgap]
  · simp [edgeHBranch_sync, hle]
  · simp only [State.setCore_core, ← BitVec.toNat_inj, edgeHBranch_idx, CoreState.recordTime_idx, if_neg (Nat.not_lt.2 hle)]
    split
    · exact .inr rfl
    · exact .inl rfl

/-- Settles O3: the branch is a capture, and under R7 what it stores is not truncated. -/
theorem edgeHighCaptureStoresClampedWidth : Obligations.EdgeHighCaptureStoresClampedWidth := by
  intro t s d k hp ht hd hle hs hk hk6
  obtain ⟨hsync, hidx, hbuf, hother, hready, hlastt⟩ :=
    edgeHBranch_of_capture (t := t) (c := s.core.recordTime s.params t) hle hs hk hk6
  rw [channelVal_eq_clamp hp] at hbuf
  rw [timeVal_of_lt ht] at hlastt
  refine ⟨_, exec_edgeH_of_residue hd, ?_, hsync, hidx, hbuf, hother, hready, hlastt, rfl, rfl, rfl⟩
  simp [edgeHBranch_ref, timeVal_of_lt ht]

/-- Settles O4: the two cases of `edgeHBranch_completion`; the index after the sixth capture is 6. -/
theorem completionIsTheSixthCapture : Obligations.CompletionIsTheSixthCapture := by
  intro t s d ht hd
  have hfive : s.core.idx = 5#3 ↔ s.core.idx.toNat = 5 := BitVec.toNat_inj.symm
  refine ⟨_, exec_edgeH_of_residue hd, ?_⟩
  rw [hfive]
  refine ⟨fun ⟨hle, hs, hi⟩ => ?_, fun hn => ?_⟩
  · obtain ⟨-, hidx, -, -, hready, hlastt⟩ :=
      edgeHBranch_of_capture (t := t) (c := s.core.recordTime s.params t) hle hs hi (by decide)
    rw [if_pos rfl, timeVal_of_lt ht] at hlastt
    exact ⟨hready, hready, hlastt, BitVec.eq_of_toNat_eq hidx⟩
  · obtain ⟨hle, hs, hi, -⟩ | ⟨-, h⟩ := edgeHBranch_completion s.params t d (s.core.recordTime s.params t)
    · exact absurd ⟨hle, hs, hi⟩ hn
    · exact h

/-- Settles O5: the branch that writes nothing, so that REF alone has changed. -/
theorem edgeHighIgnoredWritesReferenceOnly : Obligations.EdgeHighIgnoredWritesReferenceOnly := by
  intro t s d ht hd hle h
  have hignored : (s.core.recordTime s.params t).sync = false ∨ 6 ≤ (s.core.recordTime s.params t).idx.toNat :=
    h.imp_right fun hi => by simp [hi]
  have hexec := exec_edgeH_of_residue hd
  rw [edgeHBranch_of_ignored hle hignored] at hexec
  exact ⟨_, hexec, timeVal_of_lt ht, rfl, rfl, rfl, rfl, rfl, rfl, rfl, rfl⟩

/-! ### Durations across a wrap -/

/-- `sub_W` of the time-base values of two tick counts is the residue of their difference (R60 (a)). -/
theorem subW_mod_mod (p : Params) {a b : Nat} (h : a ≤ b) : subW p (b % 2 ^ p.timeW) (a % 2 ^ p.timeW) = (b - a) % 2 ^ p.timeW := by
  have hcast := subW_cast p (b % 2 ^ p.timeW) (a % 2 ^ p.timeW)
  rw [Int.natCast_emod, Int.natCast_emod, ← Int.sub_emod, ← Nat.cast_sub h, ← Int.natCast_emod] at hcast
  exact_mod_cast hcast

/-- Settles O6: the residue of the difference is the difference where that is less than the modulus. -/
theorem durationCorrectAcrossWrap : Obligations.DurationCorrectAcrossWrap :=
  fun p _ _ h => ⟨subW_mod_mod p h, fun hlt => (subW_mod_mod p h).trans (Nat.mod_eq_of_lt hlt)⟩

/-! ### The transition table -/

/-- Settles O7: the next phase is the one of the model's own phase function, and the other writes are those of the branch that the row names. -/
theorem decoderFollowsTransitionTable : Obligations.DecoderFollowsTransitionTable := by
  intro t s ph hinv ht hph
  have hlow : s.core.recordTime s.params t = { s.core with ref := t } := by rw [CoreState.recordTime, timeVal_of_lt ht]
  refine ⟨⟨_, rfl, hph, hlow⟩, ?_⟩
  obtain ⟨s', hexec, hphase⟩ := phaseFunctionAgreesWithMachine t s ph hinv.idx_le hph
  have hcore : s'.core = (s.core.recordTime s.params t).edgeHBranch s.params t (subW s.params t s.core.ref) := by cases hexec; rfl
  rw [subW_eq_mod hinv.ref_range.le] at hphase hcore
  refine ⟨s', hexec, by rw [hcore, edgeHBranch_ref]; exact timeVal_of_lt ht, ?_⟩
  generalize (t + 2 ^ s.params.timeW - s.core.ref) % 2 ^ s.params.timeW = d at hphase hcore
  refine ⟨fun hgap => ?_, fun hle hrest => ?_, fun k hle hk => ?_⟩
  · rw [Phase.afterEdgeH_gap hgap] at hphase
    rw [edgeHBranch_of_gap hgap] at hcore
    rw [hcore] at hphase ⊢
    exact ⟨hphase, rfl, rfl, rfl⟩
  · have hstay : ph.afterEdgeH s.params d = ph := by
      obtain rfl | rfl := hrest <;> exact if_neg (Nat.not_lt.2 hle)
    have hignored : (s.core.recordTime s.params t).sync = false ∨ 6 ≤ (s.core.recordTime s.params t).idx.toNat := by
      obtain rfl | rfl := hrest
      · exact .inl (phase_idle_iff.1 hph)
      · exact .inr (phase_done_iff.1 hph).2.ge
    rw [edgeHBranch_of_ignored hle hignored] at hcore
    rw [hstay] at hphase
    rw [hcore] at hphase ⊢
    exact ⟨hphase, rfl, rfl, rfl⟩
  · subst hk
    obtain ⟨hs, hi⟩ := phase_capturing_iff.1 hph
    obtain ⟨-, -, hbuf, hother, hready, hlastt⟩ :=
      edgeHBranch_of_capture (t := t) (c := s.core.recordTime s.params t) hle hs hi k.isLt
    rw [Phase.afterEdgeH_capturing (Nat.not_lt.2 hle)] at hphase
    rw [channelVal_eq_max_min hinv.params_valid] at hbuf
    have hfive : k.val = 5 ↔ k = 5 := (Fin.ext_iff (b := 5)).symm
    simp only [hfive, timeVal_of_lt ht] at hready hlastt
    rw [hcore] at hphase ⊢
    exact ⟨hphase, fun j hj => hother j j.isLt (Fin.val_ne_of_ne hj), hbuf, hready, hlastt⟩

/-! ### When READY rises -/

/-- Settles O42: the machine agrees with its past before and after the event, and READY after it is what the longer past determines. -/
theorem readyRisesExactlyAtSixthCapture : Obligations.ReadyRisesExactlyAtSixthCapture := by
  intro p past t s hvalid hwf ht hs hready
  obtain ⟨s', hx⟩ := exec_total (.edgeH t) s
  have hbefore := Past.agrees_of_run hvalid hwf hs
  have hafter : Past.Agrees p (.edgeH t :: past) s' := hbefore.of_exec hvalid hwf (isTime_iff.2 ht) hx
  refine ⟨s', hx, ?_⟩
  rw [hafter.ready]
  by_cases hc : Past.completes p t past
  · simp [Past.untaken_edgeH_completes hc, hc]
  · simp [Past.untaken_edgeH_other hc, hc, ← hbefore.ready, hready]

/-! ### How a frame is assembled -/

/-- Every instruction returns a response exactly if it is a host transaction (R46). -/
theorem runAll_out {is : List Instr} {s s' : State} (h : runAll is s = .next s') :
    ∃ rs, s'.out = s.out ++ rs ∧ rs.length = (is.filter Instr.isCommand).length := by
  induction is generalizing s with
  | nil => cases h; exact ⟨[], by simp, rfl⟩
  | cons i is ih =>
    obtain ⟨s₁, hx, hrest⟩ := andThen_eq_next.1 h
    obtain ⟨rs, hout, hlen⟩ := ih hrest
    cases hi : i.isCommand with
    | true =>
      obtain ⟨s₂, r, hx', -, -, hr, -⟩ := exec_command s hi
      cases hx.symm.trans hx'
      exact ⟨r :: rs, by rw [hout, hr, List.append_assoc, List.singleton_append], by simp [hi, hlen]⟩
    | false =>
      rw [exec_out_of_not_command hi hx] at hout
      exact ⟨rs, hout, by simp [hi, hlen]⟩

theorem lastLow_command {i : Instr} (hi : i.isCommand = true) (ref : Nat) (is : List Instr) : lastLow ref (i :: is) = lastLow ref is := by
  cases i with
  | edgeL _ | edgeH _ | reset => cases hi
  | _ => rfl

/-- `EDGE.L` events and host transactions move REF to the last of the edges, and may clear READY; they write nothing else of CORE (R53, R65). -/
theorem runAll_lowsAndCommands {is : List Instr} {s : State} (h : OnlyLowsAndCommands s.params is) :
    ∃ s' r, runAll is s = .next s' ∧ s'.params = s.params ∧ s'.core = { s.core with ref := lastLow s.core.ref is, ready := r } := by
  induction is generalizing s with
  | nil => exact ⟨s, s.core.ready, rfl, rfl, rfl⟩
  | cons i is ih =>
    obtain ⟨⟨hwf, hcmd | ⟨t, rfl⟩⟩, his⟩ := List.forall_mem_cons.1 h
    · obtain ⟨s₁, -, hx, hp, -, -, -, hc, -⟩ := exec_command s hcmd
      obtain ⟨s', r, hrun, hp', hc'⟩ := ih (s := s₁) (by rwa [hp])
      refine ⟨s', r, by rw [runAll, hx, andThen_next, hrun], hp'.trans hp, ?_⟩
      rw [hc', lastLow_command hcmd, hc]
    · obtain ⟨s', r, hrun, hp', hc'⟩ := ih (s := s.setCore (s.core.recordTime s.params t)) his
      refine ⟨s', r, hrun, hp', ?_⟩
      rw [hc', State.setCore_core, CoreState.recordTime_ref, timeVal_of_lt (isTime_iff.1 hwf)]
      rfl

theorem runAll_append_singleton {is : List Instr} {i : Instr} {s s₁ s₂ : State} (h : runAll is s = .next s₁) (hx : exec i s₁ = .next s₂) :
    runAll (is ++ [i]) s = .next s₂ := by
  rw [runAll_append, h, andThen_next, runAll, hx, andThen_next, runAll]

/-- One HIGH sample with what runs before it: the branch of an `EDGE.H` whose duration is taken from the edge before it, with READY as the host has left it (R51, R54). -/
theorem runAll_highSample {gap : List Instr} {s : State} {t d : Nat} (hgap : OnlyLowsAndCommands s.params gap)
    (hd : (d : Int) = ((t : Int) - (lastLow s.core.ref gap : Int)) % (2 : Int) ^ s.params.timeW) :
    ∃ s' r, runAll (gap ++ [.edgeH t]) s = .next s' ∧ s'.params = s.params ∧
      s'.core = ({ s.core with ready := r }.recordTime s.params t).edgeHBranch s.params t d := by
  obtain ⟨s₁, r, hrun, hp, hc⟩ := runAll_lowsAndCommands hgap
  have hx : exec (.edgeH t) s₁ = .next (s₁.setCore ((s₁.core.recordTime s₁.params t).edgeHBranch s₁.params t d)) :=
    exec_edgeH_of_residue (by rw [hc, hp]; exact hd)
  refine ⟨_, r, runAll_append_singleton hrun hx, hp, ?_⟩
  rw [State.setCore_core, hc, hp]
  rfl

/-- CORE after sample `i` of a frame, the samples at the times `t` with the durations `d`: sample 0 ended the sync gap, and the pulses of the samples 1 to `i` lie in the buffer in index order
(R56, R57, R61). -/
structure Assembling (p : Params) (t d : Fin 7 → Nat) (i : Fin 7) (c : CoreState) : Prop where
  ref   : c.ref = t i
  sync  : c.sync = true
  idx   : c.idx.toNat = i.val
  buf   : ∀ j : Fin 6, j.val < i.val → c.buf[j] = max p.clampLo (min p.clampHi (d j.succ))
  ready : i = Fin.last 6 → c.ready = true
  lastt : i = Fin.last 6 → c.lastt = t i

section Assembling

variable {p : Params} {t d : Fin 7 → Nat} {c : CoreState}

/-- A sync gap begins a frame in every state of CORE (R55). -/
theorem Assembling.of_gap (ht : t 0 < 2 ^ p.timeW) (hd : p.syncTh < d 0) :
    Assembling p t d 0 ((c.recordTime p (t 0)).edgeHBranch p (t 0) (d 0)) := by
  rw [edgeHBranch_of_gap hd]
  exact { ref := timeVal_of_lt ht, sync := rfl, idx := rfl, buf := nofun, ready := nofun, lastt := nofun }

/-- A pulse goes to the next element of the buffer, and the sixth completes the frame, whatever the host has done to READY (R56, R57). -/
theorem Assembling.succ {i : Fin 6} (h : Assembling p t d i.castSucc c) (hp : p.valid = true) (ht : t i.succ < 2 ^ p.timeW)
    (hd : d i.succ ≤ p.syncTh) (r : Bool) :
    Assembling p t d i.succ (({ c with ready := r }.recordTime p (t i.succ)).edgeHBranch p (t i.succ) (d i.succ)) := by
  obtain ⟨hsync, hidx, hbuf, hother, hready, hlastt⟩ :=
    edgeHBranch_of_capture (t := t i.succ) (c := { c with ready := r }.recordTime p (t i.succ)) hd h.sync h.idx i.isLt
  have hfive : i.succ = Fin.last 6 → i.val = 5 := fun hi => by simpa using congrArg Fin.val hi
  exact {
    ref   := by rw [edgeHBranch_ref]; exact timeVal_of_lt ht
    sync  := hsync
    idx   := hidx
    buf   := fun j hj => by
      obtain hlt | heq := Nat.lt_succ_iff_lt_or_eq.1 hj
      · exact (hother j j.isLt hlt.ne).trans (h.buf j hlt)
      · obtain rfl := Fin.ext heq
        exact hbuf.trans (channelVal_eq_max_min hp _)
    ready := fun hi => by rw [hready, if_pos (hfive hi)]
    lastt := fun hi => by rw [hlastt, if_pos (hfive hi), timeVal_of_lt ht] }

end Assembling

/-- Sample `i` of a stream follows the ones before it. -/
theorem flatten_take_succ (f : Fin 7 → List Instr) (i : Fin 6) :
    ((List.ofFn f).take (i.succ.val + 1)).flatten = ((List.ofFn f).take (i.castSucc.val + 1)).flatten ++ f i.succ := by
  rw [List.take_succ_eq_append_getElem (by rw [List.length_ofFn]; exact i.succ.isLt), List.flatten_append, List.getElem_ofFn, List.flatten_singleton]
  rfl

/-- The HIGH samples are no transactions, so the stream has those of its gaps. -/
theorem commands_of_samples (t : Fin 7 → Nat) (gap : Fin 7 → List Instr) :
    (List.ofFn fun i => gap i ++ [Instr.edgeH (t i)]).flatten.filter Instr.isCommand = (List.ofFn gap).flatten.filter Instr.isCommand := by
  simp [Instr.isCommand]

/-- Settles O9: by induction over the samples, the sync gap first; the answers are counted over the whole run. -/
theorem syncGapAndSixPulsesAssembleFrame : Obligations.SyncGapAndSixPulsesAssembleFrame := by
  intro s t d gap hp ht hgap hd₀ hd hsync hpulse
  have hsamples : ∀ i : Fin 7, ∃ s', runAll ((List.ofFn fun i => gap i ++ [Instr.edgeH (t i)]).take (i.val + 1)).flatten s = .next s' ∧
      s'.params = s.params ∧ Assembling s.params t d i s'.core := by
    intro i
    induction i using Fin.induction with
    | zero =>
      obtain ⟨s', r, hrun, hp', hc⟩ := runAll_highSample (hgap 0) hd₀
      refine ⟨s', by simpa using hrun, hp', ?_⟩
      rw [hc]
      exact .of_gap (ht 0) hsync
    | succ i ih =>
      obtain ⟨s₁, hrun₁, hp₁, h₁⟩ := ih
      obtain ⟨s', r, hrun, hp', hc⟩ := runAll_highSample (s := s₁) (by rw [hp₁]; exact hgap i.succ) (by rw [h₁.ref, hp₁]; exact hd i)
      refine ⟨s', by rw [flatten_take_succ, runAll_append, hrun₁, andThen_next, hrun], hp'.trans hp₁, ?_⟩
      rw [hc, hp₁]
      exact h₁.succ hp (ht i.succ) (hpulse i) r
  obtain ⟨s', hrun, -, h⟩ := hsamples (Fin.last 6)
  rw [List.take_of_length_le (by simp)] at hrun
  obtain ⟨rs, hout, hlen⟩ := runAll_out hrun
  rw [commands_of_samples] at hlen
  exact ⟨s', rs, hrun, h.sync, BitVec.eq_of_toNat_eq h.idx, h.ready rfl, h.lastt rfl, h.ref, fun j => h.buf j j.isLt, hout, hlen⟩

end Sys2Proof.Machine
end

section
/-! The host transactions (41_host_port.md): what each answers and writes, alone, in a sequence, and as the split form of the frame take (R65 to R73). -/

namespace Sys2Proof.Machine

/-! ### What the reading transactions answer -/

theorem exec_rdStatus (s : State) : exec .rdStatus s = .next (s.respond { ok := true, payload := .status (statusWord s.core) }) := rfl

theorem exec_snap (s : State) : exec .snap s = .next (s.respond { ok := true, payload := .snap s.core.buf }) := rfl

theorem exec_rdLastt (s : State) : exec .rdLastt s = .next (s.respond { ok := true, payload := .lastt s.core.lastt }) := rfl

/-! ### RD_LASTT -/

/-- A past in which no `EDGE.H` completes a frame has no newest completion, so its time is 0 (R18). -/
theorem Past.completedAt_of_no_completion {p : Params} {past : List Instr}
    (h : ∀ newer t older, past = newer ++ Instr.edgeH t :: older → ¬ Past.completes p t older) : Past.completedAt p past = 0 := by
  induction past with
  | nil => rfl
  | cons i past ih =>
    have hpast : Past.completedAt p past = 0 :=
      ih fun newer t older he => h (i :: newer) t older (by rw [he, List.cons_append])
    cases i with
    | edgeH t => rw [Past.completedAt_edgeH_other (h [] t past rfl), hpast]
    | reset => rfl
    | _ => exact hpast

/-- Settles O16: the response holds LASTT, which after a run from reset is the time of the newest completion in the past, 0 if there is none. -/
theorem readLastTimestampReturnsIt : Obligations.ReadLastTimestampReturnsIt := by
  refine ⟨fun s => ⟨_, exec_rdLastt s, rfl, rfl, rfl, rfl⟩, fun p past s hvalid hwf hnone hrun => ⟨_, exec_rdLastt s, ?_⟩⟩
  have hlastt : s.core.lastt = 0 := by
    rw [(Past.agrees_of_run hvalid hwf hrun).lastt, Past.completedAt_of_no_completion hnone]
  rw [State.respond_out, hlastt]

/-! ### Sequences of transactions -/

/-- Settles O21: by induction over the transactions; each returns one response and may only clear READY. -/
theorem hostWritesOnlyReady : Obligations.HostWritesOnlyReady := by
  intro is
  induction is with
  | nil => exact fun s _ => ⟨s, rfl, rfl, id, rfl, [], rfl, (List.append_nil _).symm⟩
  | cons i is ih =>
    intro s his
    obtain ⟨hi, his⟩ := List.forall_mem_cons.1 his
    obtain ⟨s₁, r, hx, hp, -, hout, -, hcore, hready⟩ := exec_command s hi
    obtain ⟨s', hrun, hcore', hready', hp', rs, hlen, hout'⟩ := ih s₁ his
    refine ⟨s', by rw [runAll, hx, andThen_next, hrun], hcore'.trans (by rw [hcore]), fun h => ?_, hp'.trans hp,
      r :: rs, by rw [List.length_cons, List.length_cons, hlen], by rw [hout', hout, List.append_assoc, List.singleton_append]⟩
    have h₁ : s₁.core.ready = true := hready' h
    obtain hsame | hclear := hready
    · rw [← hsame, h₁]
    · rw [hclear] at h₁
      cases h₁

/-! ### One transaction -/

/-- Settles O12: the fields of the STATUS word. -/
theorem readStatusReturnsPackedControlState : Obligations.ReadStatusReturnsPackedControlState := by
  intro s
  obtain ⟨hready, hsync, hidx, hzero⟩ := statusWord_fields s.core
  refine ⟨_, statusWord s.core, exec_rdStatus s, rfl, hready, hsync, hidx, hzero, fun hle h7 => ?_, rfl, rfl, rfl⟩
  rw [← hidx, h7] at hle
  exact absurd hle (by decide)

/-- Settles O13: READY is the one field that CLR_READY writes. -/
theorem clearReadyClearsOnlyReady : Obligations.ClearReadyClearsOnlyReady :=
  fun s => ⟨_, exec_clrReady s, rfl, rfl, rfl, rfl, rfl, rfl, rfl, rfl, rfl, rfl⟩

/-- Settles O14: the values are those of the buffer. -/
theorem snapReturnsSixValuesOfOneState : Obligations.SnapReturnsSixValuesOfOneState :=
  fun s => ⟨_, s.core.buf, exec_snap s, rfl, fun _ => rfl, rfl, rfl, rfl⟩

/-- Settles O15: the second TAKE runs in the state that the first has left, with READY clear and the same buffer. -/
theorem takeTestsClearsAndCopies : Obligations.TakeTestsClearsAndCopies :=
  fun s => ⟨_, s.core.buf, exec_take s, rfl, fun _ => rfl, rfl, rfl, rfl, rfl, rfl, rfl, rfl, rfl, rfl, _, exec_take _, rfl⟩

/-! ### Reserved words -/

/-- Settles O17: each of the seven constructors is reserved, and a reserved word is only answered. -/
theorem reservedWordAnswersNotOk : Obligations.ReservedWordAnswersNotOk := by
  intro i s h
  have hi : i.isReserved = true := by
    obtain rfl | ⟨x, rfl⟩ | ⟨x, rfl⟩ | ⟨x, rfl⟩ | ⟨x, rfl⟩ | ⟨x, rfl⟩ | ⟨x, rfl⟩ := h <;> rfl
  exact exec_reserved hi s

/-- Settles O18: the words from `0x05` on are the reserved ones. -/
theorem reservedRangeAnswersNotOk : Obligations.ReservedRangeAnswersNotOk :=
  fun _ s hc => ⟨decodeCmd_isReserved_iff.2 hc, exec_reserved (decodeCmd_isReserved_iff.2 hc) s⟩

/-! ### The two forms of the frame take -/

/-- "if `READY = 0`, nothing changes" (R67). -/
theorem CoreState.clearReady_of_not_ready {c : CoreState} (h : c.ready = false) : c.clearReady = c := by
  rw [CoreState.clearReady, ← h]

/-- With nothing between its transactions the split sequence reads STATUS, and where READY is set it clears READY and copies the buffer (R73). -/
theorem splitTake_without_gaps (s : State) :
    ∃ s', splitTake [] [] s = .next (s', if s.core.ready then some s.core.buf else none) ∧ s'.core = s.core.clearReady ∧
      (s.core.ready = true → s'.out.getLast? = some { ok := true, payload := .snap s.core.buf }) := by
  rw [splitTake_eq]
  cases hr : s.core.ready with
  | true => exact ⟨_, rfl, rfl, fun _ => List.getLast?_concat⟩
  | false => exact ⟨_, rfl, (CoreState.clearReady_of_not_ready hr).symm, nofun⟩

/-- Settles O23: both forms give the host the buffer where READY was set, and nothing where it was clear, and both leave READY clear. -/
theorem splitHandshakeEqualsTakeWithoutEdges : Obligations.SplitHandshakeEqualsTakeWithoutEdges := by
  intro s
  obtain ⟨s₁, hsplit, hcore, hsnap⟩ := splitTake_without_gaps s
  refine ⟨s₁, _, _, hsplit, frameTake_take s, exec_take s, hcore, fun hr => ⟨by rw [hr]; rfl, hsnap hr, ?_⟩, fun hr => ?_⟩
  · rw [State.respond_out, List.getLast?_concat, hr]
  · have hclear := CoreState.clearReady_of_not_ready hr
    exact ⟨by rw [hr]; rfl, hcore.trans hclear, hclear, by rw [State.respond_out, List.getLast?_concat, hr]⟩

end Sys2Proof.Machine
end

section
/-! The reference host (45_host_consumer.md): the stick mapping and the buttons, and what a cycle does where the signal is lost and where it is fresh (R74 to R81). -/

namespace Sys2Proof.Machine

/-- The host's constraints of R7 and D28, clause by clause. -/
theorem hostValid_iff {p : Params} {h : HostParams} :
    h.valid p = true ↔ h.btnLo < p.pwMid ∧ p.pwMid < h.btnHi ∧ 0 ≤ h.deadzone := by
  simp [HostParams.valid, and_assoc]

/-! ### The stick mapping (R78) -/

/-- The line of R78 through `(a, c)` and `(b, e)`: at `a` both divisions are of 0. -/
theorem lin_start (arith : MapArith) (a b c e : Int) : lin arith a a b c e = c := by
  cases arith <;> simp [lin]

/-- At `b` both divisions are exact. -/
theorem lin_end (arith : MapArith) {a b : Int} (c e : Int) (hab : a < b) : lin arith b a b c e = e := by
  have hne : b - a ≠ 0 := by omega
  cases arith with
  | exact =>
    have hne' : ((b - a : Int) : Rat) ≠ 0 := by exact_mod_cast hne
    rw [lin, Int.cast_mul, mul_div_cancel_left₀ _ hne', ← Int.cast_add, Int.sub_add_cancel]
  | trunc => rw [lin, Int.mul_tdiv_cancel_left _ hne, Int.sub_add_cancel]

/-- The piecewise-linear formula of R78 under exact division. -/
theorem stickLin_exact (p : Params) (r : Nat) :
    stickLin p .exact r =
      if r ≤ p.pwMid then ((r : Rat) - p.pwMin) * 100 / (p.pwMid - p.pwMin) - 100 else ((r : Rat) - p.pwMid) * 100 / (p.pwMax - p.pwMid) := by
  unfold stickLin
  split
  · simp [lin, sub_eq_add_neg]
  · simp [lin]

/-- The piecewise-linear formula of R78 under division truncated toward zero. -/
theorem stickLin_trunc (p : Params) (r : Nat) :
    stickLin p .trunc r =
      if r ≤ p.pwMid then (((((r : Int) - p.pwMin) * 100).tdiv ((p.pwMid : Int) - p.pwMin) - 100 : Int) : Rat)
      else (((((r : Int) - p.pwMid) * 100).tdiv ((p.pwMax : Int) - p.pwMid) : Int) : Rat) := by
  unfold stickLin
  split
  · simp [lin, sub_eq_add_neg]
  · simp [lin]

section Endpoints
variable {p : Params} (arith : MapArith)

theorem stickLin_pwMin (h : p.pwMin < p.pwMid) : stickLin p arith p.pwMin = -100 := by
  rw [stickLin, if_pos h.le, lin_start]; rfl

theorem stickLin_pwMid (h : p.pwMin < p.pwMid) : stickLin p arith p.pwMid = 0 := by
  rw [stickLin, if_pos le_rfl, lin_end arith (-100) 0 (by exact_mod_cast h)]; rfl

theorem stickLin_pwMax (h : p.pwMid < p.pwMax) : stickLin p arith p.pwMax = 100 := by
  rw [stickLin, if_neg (Nat.not_le.2 h), lin_end arith 0 100 (by exact_mod_cast h)]; rfl

end Endpoints

theorem stickDeadzone_of_le {h : HostParams} {m : Rat} (hm : |m| ≤ h.deadzone) : stickDeadzone h m = 0 :=
  if_pos (abs_le.1 hm)

theorem stickDeadzone_of_lt {h : HostParams} {m : Rat} (hm : h.deadzone < |m|) : stickDeadzone h m = m :=
  if_neg fun hle => hm.not_ge (abs_le.2 hle)

/-- The clamp leaves a mapped value of magnitude at most 100 as it is. -/
theorem stickMap_of_abs_le {p : Params} {h : HostParams} {r : Nat} {m : Rat} (hlin : stickLin p h.mapArith r = m) (hm : |m| ≤ 100) :
    stickMap p h r = stickDeadzone h m := by
  have hclamp : stickClamp m = m := by
    rw [stickClamp_eq, min_eq_right (abs_le.1 hm).2, max_eq_right (abs_le.1 hm).1]
  rw [stickMap, hlin, hclamp]

/-- A stick value is 0 or farther out than the deadzone. -/
theorem deadzone_lt_abs_stickMap {p : Params} {h : HostParams} {r : Nat} (hne : stickMap p h r ≠ 0) : h.deadzone < |stickMap p h r| := by
  have hlt : h.deadzone < |stickClamp (stickLin p h.mapArith r)| := by
    by_contra hle
    exact hne (stickDeadzone_of_le (not_lt.1 hle))
  rwa [stickMap, stickDeadzone_of_lt hlt]

/-- Settles O51: the formula by the arithmetic, the clamp and the deadzone by the magnitude, and the three endpoints by the ends of the two lines. -/
theorem stickMappingEndpointsAndRange : Obligations.StickMappingEndpointsAndRange := by
  intro p h r hp hh
  obtain ⟨-, -, -, -, -, hmin, hmax⟩ := valid_iff.1 hp
  obtain ⟨-, -, hdead⟩ := hostValid_iff.1 hh
  rw [← stickClamp_eq]
  refine ⟨fun ha => by rw [ha, stickLin_exact], fun ha => by rw [ha, stickLin_trunc], stickDeadzone_of_lt, stickDeadzone_of_le, ?_,
    stickLin_pwMin _ hmin, stickLin_pwMax _ hmax, fun hlt => ⟨?_, ?_⟩, (stickMap_range p h r).1, (stickMap_range p h r).2, deadzone_lt_abs_stickMap⟩
  · rw [stickMap_of_abs_le (stickLin_pwMid _ hmin) (by norm_num), stickDeadzone_of_le (by rwa [abs_zero])]
  · rw [stickMap_of_abs_le (stickLin_pwMin _ hmin) (by norm_num), stickDeadzone_of_lt (by norm_num [hlt])]
  · rw [stickMap_of_abs_le (stickLin_pwMax _ hmax) (by norm_num), stickDeadzone_of_lt (by norm_num [hlt])]

/-! ### The buttons (R79) -/

/-- Settles O50: by R7, a value below BTN_LO is below BTN_HI. -/
theorem buttonPairIsExclusive : Obligations.ButtonPairIsExclusive := by
  intro p h r hh
  obtain ⟨hlo, hhi, -⟩ := hostValid_iff.1 hh
  have htop : buttonTop h r = true ↔ r < h.btnLo := decide_eq_true_iff
  have hbot : buttonBot h r = true ↔ h.btnHi < r := decide_eq_true_iff
  refine ⟨htop, hbot, fun ⟨ht, hb⟩ => ?_⟩
  have hbelow := htop.1 ht
  have habove := hbot.1 hb
  omega

/-! ### A cycle (R75 to R77) -/

/-- The signal-loss test over the integers (R76). -/
theorem signalLost_iff {p : Params} {h : HostParams} {now lt : Nat} :
    signalLost p h now lt = true ↔ (h.timeout : Int) < ((now : Int) - (lt : Int)) % (2 : Int) ^ p.timeW := by
  have hcast : ((subW p now lt : Nat) : Int) = ((now : Int) - (lt : Int)) % (2 : Int) ^ p.timeW := by
    rw [subW_cast, Nat.cast_pow, Nat.cast_ofNat]
  rw [signalLost, decide_eq_true_eq, ← hcast, Nat.cast_lt]

/-- Settles O52: RD_LASTT is the one transaction of such a cycle. -/
theorem lostSignalForcesSafeState : Obligations.LostSignalForcesSafeState :=
  fun h now gap form s c hlost => ⟨_, consumerCycle_lost h now gap form s c (signalLost_iff.2 hlost), rfl⟩

/-- No sequence of instructions stops (R83). -/
theorem runAll_total (is : List Instr) (s : State) : ∃ s', runAll is s = .next s' := by
  induction is generalizing s with
  | nil => exact ⟨s, rfl⟩
  | cons i is ih =>
    obtain ⟨s₁, hx⟩ := exec_total i s
    obtain ⟨s', hrun⟩ := ih s₁
    exact ⟨s', by rw [runAll, hx, andThen_next, hrun]⟩

theorem Consumer.finish_stick (p : Params) (h : HostParams) (r : Option (Vector Nat 6)) (c : Consumer) (k : Nat) (hk : k < 4) :
    (c.finish p h r).stick[k] = stickMap p h (c.finish p h r).snapv[k] :=
  Consumer.convert_stick p h _ k hk

theorem Consumer.finish_buttons (p : Params) (h : HostParams) (r : Option (Vector Nat 6)) (c : Consumer) (j : Nat) (hj : j < 2) :
    (c.finish p h r).top[j] = buttonTop h (c.finish p h r).snapv[4 + j] ∧ (c.finish p h r).bot[j] = buttonBot h (c.finish p h r).snapv[4 + j] :=
  Consumer.convert_buttons p h _ j hj

section Cycle
variable {h : HostParams} {now : Nat} {gap : List Instr} {form : TakeForm} {s s₁ s₂ s' : State} {c : Consumer} {frame : Option (Vector Nat 6)}

/-- A cycle with a fresh signal, by what its frame take answers: the host finishes with the frame, and reports. -/
theorem consumerCycle_of_frameTake (hfresh : signalLost s.params h now s.core.lastt = false) (hread : exec .rdLastt s = .next s₁)
    (hgap : runAll gap s₁ = .next s₂) (htake : frameTake form s₂ = .next (s', frame)) :
    consumerCycle h now gap form s c = .next (s', c.finish s.params h frame, [(c.finish s.params h frame).reportLine]) := by
  cases hread
  rw [consumerCycle_fresh h now gap form s c hfresh, hgap, andThen_next, htake, andThen_next]

/-- What such a cycle reports and leaves in the host, in either form of the frame take: everything is computed from the frame if there is one, and from the old snapshot if not. -/
theorem consumerCycle_reports (hrecent : ((now : Int) - (s.core.lastt : Int)) % (2 : Int) ^ s.params.timeW ≤ (h.timeout : Int))
    (hread : exec .rdLastt s = .next s₁) (hgap : runAll gap s₁ = .next s₂) (htake : frameTake form s₂ = .next (s', frame)) :
    ∃ c', consumerCycle h now gap form s c =
        .next (s', c', [.report #v[c'.snapv[0], c'.snapv[1], c'.snapv[2], c'.snapv[3]] c'.stick c'.top c'.bot]) ∧
      c'.lost = false ∧ c'.snapv = frame.getD c.snapv ∧
      (∀ k : Fin 4, c'.stick[k] = stickMap s.params h (c'.snapv[k.val]'(by omega))) ∧
      (∀ j : Fin 2, c'.top[j] = buttonTop h (c'.snapv[4 + j.val]'(by omega)) ∧ c'.bot[j] = buttonBot h (c'.snapv[4 + j.val]'(by omega))) := by
  have hfresh : signalLost s.params h now s.core.lastt = false :=
    Bool.eq_false_iff.2 fun hlost => (signalLost_iff.1 hlost).not_ge hrecent
  exact ⟨_, consumerCycle_of_frameTake hfresh hread hgap htake, Consumer.finish_lost .., Consumer.finish_snapv ..,
    fun k => Consumer.finish_stick _ _ _ _ k k.isLt, fun j => Consumer.finish_buttons _ _ _ _ j j.isLt⟩

/-- The split sequence by the states between its transactions: it copies the buffer after both windows where READY was seen, and does nothing more where it was not (R73 (a)). -/
theorem splitTake_of_windows {gap₁ gap₂ : List Instr} {t₁ t₂ t₃ t₄ : State} (hstatus : exec .rdStatus s = .next t₁)
    (hgap₁ : runAll gap₁ t₁ = .next t₂) (hclr : exec .clrReady t₂ = .next t₃) (hgap₂ : runAll gap₂ t₃ = .next t₄) :
    ∃ s', splitTake gap₁ gap₂ s = .next (s', if s.core.ready then some t₄.core.buf else none) ∧
      s'.core = if s.core.ready then t₄.core else s.core := by
  cases hstatus
  cases hclr
  rw [splitTake_eq]
  cases s.core.ready with
  | true =>
    rw [if_pos rfl, hgap₁, andThen_next, hgap₂]
    exact ⟨_, rfl, rfl⟩
  | false => exact ⟨_, rfl, rfl⟩

end Cycle

/-- The snapshot after a frame take that brings `v` only where READY was set. -/
theorem getD_frame (ready : Bool) (v w : Vector Nat 6) : (if ready then some v else none).getD w = if ready then v else w := by
  cases ready <;> rfl

/-- Settles O53: the frame take is one TAKE, which brings the buffer exactly where READY is set and clears READY. -/
theorem freshSignalIsTakenAndReported : Obligations.FreshSignalIsTakenAndReported := by
  intro h now gap s s₁ s₂ c hrecent hread hgap
  obtain ⟨c', hcycle, hlost, hsnapv, hstick, hbuttons⟩ := consumerCycle_reports (c := c) hrecent hread hgap (frameTake_take s₂)
  exact ⟨_, c', hcycle, rfl, hlost, hsnapv.trans (getD_frame ..), hstick, hbuttons⟩

/-- Settles O54: the frame take is the split sequence, run through its windows. -/
theorem splitFormCycleUsesTheCopiedFrame : Obligations.SplitFormCycleUsesTheCopiedFrame := by
  intro h now gap gap₁ gap₂ s s₁ s₂ s₃ s₄ s₅ s₆ c hrecent hread hgap hstatus hgap₁ hclr hgap₂
  obtain ⟨s', htake, hcore⟩ := splitTake_of_windows hstatus hgap₁ hclr hgap₂
  obtain ⟨c', hcycle, hlost, hsnapv, hstick, hbuttons⟩ :=
    consumerCycle_reports (form := .split gap₁ gap₂) (c := c) hrecent hread hgap htake
  exact ⟨s', c', hcycle, hcore, hlost, hsnapv.trans (getD_frame ..), hstick, hbuttons⟩

/-- Settles O55: a lost signal ends the cycle before the frame take; with a fresh one the two forms bring the same frame and leave the same core. -/
theorem splitFormCycleEqualsTakeFormCycle : Obligations.SplitFormCycleEqualsTakeFormCycle := by
  intro h now gap s c
  cases hlost : signalLost s.params h now s.core.lastt with
  | true => exact ⟨_, _, _, _, consumerCycle_lost h now gap _ s c hlost, consumerCycle_lost h now gap _ s c hlost, rfl⟩
  | false =>
    obtain ⟨s₂, hgap⟩ := runAll_total gap (s.respond { ok := true, payload := .lastt s.core.lastt })
    obtain ⟨s₃, hsplit, hcore, -⟩ := splitTake_without_gaps s₂
    exact ⟨s₃, _, _, _, consumerCycle_of_frameTake (form := .split [] []) hlost (exec_rdLastt s) hgap hsplit,
      consumerCycle_of_frameTake hlost (exec_rdLastt s) hgap (frameTake_take s₂), hcore⟩

/-! ### The sticks after a cycle (R74) -/

theorem Consumer.forceSafe_inv (h : HostParams) (c : Consumer) : c.forceSafe.Inv h := by
  have hzero : ∀ k : Fin 4, c.forceSafe.stick[k] = 0 := by
    intro k
    fin_cases k <;> rfl
  exact ⟨fun k => by rw [hzero k]; norm_num, fun _ k => ⟨0, hzero k⟩⟩

theorem Consumer.finish_inv (p : Params) (h : HostParams) (r : Option (Vector Nat 6)) (c : Consumer) : (c.finish p h r).Inv h := by
  have hstick (k : Fin 4) := Consumer.finish_stick p h r c k k.isLt
  exact ⟨fun k => (hstick k).symm ▸ stickMap_range p h _, fun ha k => (hstick k).symm ▸ stickMap_integer p h _ ha⟩

/-- A cycle forces the safe state or finishes with what its frame take brought. -/
theorem consumerCycle_cases {h : HostParams} {now : Nat} {gap : List Instr} {form : TakeForm} {s s' : State} {c c' : Consumer}
    {o : List HostOutput} (hcycle : consumerCycle h now gap form s c = .next (s', c', o)) :
    (c' = c.forceSafe ∧ o = [.lossNotice]) ∨ ∃ frame, c' = c.finish s.params h frame ∧ o = [c'.reportLine] := by
  cases hlost : signalLost s.params h now s.core.lastt with
  | true =>
    cases (consumerCycle_lost h now gap form s c hlost).symm.trans hcycle
    exact .inl ⟨rfl, rfl⟩
  | false =>
    rw [consumerCycle_fresh h now gap form s c hlost] at hcycle
    obtain ⟨s₂, -, hrest⟩ := andThen_eq_next.1 hcycle
    obtain ⟨⟨s₃, frame⟩, -, hfinish⟩ := andThen_eq_next.1 hrest
    cases hfinish
    exact .inr ⟨frame, rfl, rfl⟩

/-- Settles O56: the safe state and a finished conversion both meet the range. -/
theorem hostCycleKeepsSticksInRange : Obligations.HostCycleKeepsSticksInRange := by
  intro h now gap form s s' c c' o hcycle
  obtain ⟨rfl, -⟩ | ⟨frame, rfl, -⟩ := consumerCycle_cases hcycle
  · exact Consumer.forceSafe_inv h c
  · exact Consumer.finish_inv s.params h frame c

end Sys2Proof.Machine
end

section
/-! Exceptional input (60_exceptions.md): no input of CORE's formats leaves CORE stuck (R47, R83). -/

namespace Sys2Proof.Machine

/-- A step takes the first input from the queue, where there is one, and leaves the others as they are (R34). -/
theorem step_inputs {s s' : State} (h : step s = .next s') : s'.inputs = s.inputs.tail := by
  obtain ⟨-, -, ⟨hx, rfl⟩ | ⟨x, rest, i, hx, -, hexec⟩⟩ := step_cases h
  · rw [hx, List.tail_nil]
  · rw [hx, List.tail_cons]
    exact (exec_params_inputs hexec).2

/-- Where every input that is ready fits, the next one is no edge word that is too wide (R41). -/
theorem State.InputsFit.not_nextEvtTooWide {s : State} (h : s.InputsFit) : ¬ s.NextEvtTooWide := by
  rintro ⟨w, rest, hx, hwide⟩
  have hfit : (Input.evt w).fits s.params = true := h _ (hx ▸ List.mem_cons_self)
  exact Nat.not_lt.2 hwide (fits_evt_iff.1 hfit)

/-- The inputs left in the queue were in it before, and the formats' widths stay as they are. -/
theorem step_keeps_inputsFit {s s' : State} (hfit : s.InputsFit) (h : step s = .next s') : s'.InputsFit := by
  intro x hx
  rw [step_params h]
  rw [step_inputs h] at hx
  exact hfit x (List.mem_of_mem_tail hx)

/-- Settles O38: the invariants and the fitting inputs rule out every refusal, so a step is taken; and every step keeps both. -/
theorem noInputLeavesCoreStuck : Obligations.NoInputLeavesCoreStuck := by
  intro s hs hfit
  obtain ⟨s', hstep⟩ := step_of_not_nextEvtTooWide hs.params_valid hs.idx_le hfit.not_nextEvtTooWide
  exact ⟨s', hstep, everyStepKeepsInvariants _ _ hs hstep, step_keeps_inputsFit hfit hstep, step_inputs hstep⟩

end Sys2Proof.Machine
end

section
/-! Reset and the hazards (70_reset_and_hazards.md): what a reset leaves, in which orders it wins, what must come before READY can be set, and what the stream and the host do to each
other (R96 to R98, R104, R106 to R108). -/

namespace Sys2Proof.Machine

/-! ### After a reset -/

theorem exec_reset (s : State) : exec .reset s = .next (s.setCore CoreState.reset) := rfl

theorem CoreState.reset_buf_get (i : Fin 6) : CoreState.reset.buf[i] = 0 := by
  fin_cases i <;> rfl

/-- Where the time base has not wrapped, `sub_W` is the difference (R10, R60 (a)). -/
theorem subW_of_le {p : Params} {a b : Nat} (h : b ≤ a) (ha : a < 2 ^ p.timeW) : subW p a b = a - b := by
  have hresidue := subW_mod_mod p h
  rwa [Nat.mod_eq_of_lt ha, Nat.mod_eq_of_lt (h.trans_lt ha), Nat.mod_eq_of_lt ((Nat.sub_le a b).trans_lt ha)] at hresidue

/-- An `EDGE.H` that comes no earlier than the edge before it, with no wrap between them, measures the difference of the two times (R52, R54). -/
theorem exec_edgeH_of_le {s : State} {t : Nat} (h : s.core.ref ≤ t) (ht : t < 2 ^ s.params.timeW) :
    ∃ s', exec (.edgeH t) s = .next s' ∧ s'.params = s.params ∧ s'.out = s.out ∧
      s'.core = { s.core with ref := t }.edgeHBranch s.params t (t - s.core.ref) := by
  refine ⟨_, rfl, rfl, rfl, ?_⟩
  rw [State.setCore_core, subW_of_le h ht, CoreState.recordTime, timeVal_of_lt ht]

/-- Settles O27: the next state is the one with CORE's reset state in it. -/
theorem resetClearsEveryField : Obligations.ResetClearsEveryField :=
  fun s => ⟨_, exec_reset s, rfl, rfl, rfl, rfl, CoreState.reset_buf_get, rfl, rfl, rfl, rfl, rfl, rfl⟩

/-- Settles O11: REF is 0 after the reset, so the edge measures its own time, and a HIGH sample takes the sync branch or, with SYNC clear, is ignored. -/
theorem firstEdgeAfterResetMeasuresItsTime : Obligations.FirstEdgeAfterResetMeasuresItsTime := by
  intro s t ht
  obtain ⟨s', hhigh, -, -, hc⟩ := exec_edgeH_of_le (s := s.setCore CoreState.reset) (Nat.zero_le t) ht
  refine ⟨⟨s', runAll_pair (exec_reset s) hhigh, fun hgap => ?_, fun hle => ?_⟩, _, runAll_pair (exec_reset s) rfl, ?_⟩
  · exact hc.trans (edgeHBranch_of_gap hgap)
  · exact hc.trans (edgeHBranch_of_ignored hle (.inl rfl))
  · rw [State.setCore_core, State.setCore_core, CoreState.recordTime, State.setCore_params, timeVal_of_lt ht]

/-! ### A reset among simultaneous inputs -/

/-- A queue of inputs that fit, with a reset at its end, is taken to the end and leaves CORE in the reset state, whatever the inputs before the reset did (R96, R98). -/
theorem stepN_of_queue_ending_in_reset {pre : List Input} {s : State} (hinv : s.Inv) (hfit : s.InputsFit) (hq : s.inputs = pre ++ [.rst]) :
    ∃ s', stepN s.inputs.length s = .next s' ∧ s'.core = CoreState.reset ∧ s'.inputs = [] := by
  induction pre generalizing s with
  | nil =>
    have hstep : step s = exec .reset { s with inputs := [] } := step_of_decode_ok hinv.params_valid hinv.idx_le hq rfl
    refine ⟨({ s with inputs := [] } : State).setCore CoreState.reset, ?_, rfl, rfl⟩
    rw [hq, List.nil_append, List.length_singleton, stepN, hstep, exec_reset, andThen_next, stepN]
  | cons x pre ih =>
    obtain ⟨s₁, hstep, hinv₁, hfit₁, htail⟩ := noInputLeavesCoreStuck s hinv hfit
    rw [hq, List.cons_append, List.tail_cons] at htail
    obtain ⟨s', hsteps, hcore, hempty⟩ := ih hinv₁ hfit₁ htail
    refine ⟨s', ?_, hcore, hempty⟩
    rw [hq, List.cons_append, List.length_cons, ← htail, stepN, hstep, andThen_next, hsteps]

/-- In every order that an instant with a reset admits, the reset comes last, after some of the instant's other inputs (R98). -/
theorem Instant.order_ends_in_reset {x : Instant} (hrst : x.rst = true) {o : List Input} (ho : o ∈ x.orders) :
    ∃ pre, o = pre ++ [.rst] ∧ ∀ y ∈ pre, y ∈ x.edges ∨ y ∈ x.commands := by
  rw [Instant.orders, if_pos hrst] at ho
  simp only [List.mem_cons, List.not_mem_nil, or_false] at ho
  obtain rfl | rfl | rfl | rfl | rfl := ho
  · exact ⟨[], rfl, nofun⟩
  · exact ⟨x.edges, rfl, fun _ => .inl⟩
  · exact ⟨x.commands, rfl, fun _ => .inr⟩
  · exact ⟨x.edges ++ x.commands, rfl, fun _ => List.mem_append.1⟩
  · exact ⟨x.commands ++ x.edges, rfl, fun _ hy => (List.mem_append.1 hy).symm⟩

/-- The inputs of an instant fit where its edge word does (R41, R48). -/
theorem Instant.fits_of_evt {p : Params} {x : Instant} (hevt : ∀ w, x.evt = some w → w < 2 ^ p.evtW) {y : Input}
    (hy : y ∈ x.edges ∨ y ∈ x.commands) : y.fits p = true := by
  simp only [Instant.edges, Instant.commands, List.mem_map, Option.mem_toList] at hy
  obtain ⟨w, hw, rfl⟩ | ⟨c, -, rfl⟩ := hy
  · exact fits_evt_iff.2 (hevt w hw)
  · rfl

/-- Settles O29: every order is a queue of fitting inputs with the reset at its end; and the orders named are in the list. -/
theorem resetWinsOverSimultaneousInputs : Obligations.ResetWinsOverSimultaneousInputs := by
  intro s x hinv hrst hevt
  refine ⟨fun o ho => ?_, by simp [Instant.orders, hrst], by simp [Instant.orders, hrst], by simp [Instant.orders, hrst]⟩
  obtain ⟨pre, rfl, hpre⟩ := Instant.order_ends_in_reset hrst ho
  refine stepN_of_queue_ending_in_reset (s := { s with inputs := pre ++ [.rst] }) (hinv.with_inputs _) (fun y hy => ?_) rfl
  obtain hy | hy := List.mem_append.1 hy
  · exact Instant.fits_of_evt hevt (hpre y hy)
  · rw [List.mem_singleton.1 hy]
    rfl

/-! ### Before READY is set for the first time -/

namespace Past

variable {p : Params} {past : List Instr}

/-- READY is set only where some `EDGE.H` of the past completed a frame (R16). -/
theorem exists_completes_of_untaken (h : untaken p past = true) :
    ∃ newer t older, past = newer ++ .edgeH t :: older ∧ completes p t older := by
  induction past with
  | nil => cases h
  | cons i past ih =>
    have hnewer (h : untaken p past = true) : ∃ newer t older, i :: past = newer ++ .edgeH t :: older ∧ completes p t older := by
      obtain ⟨newer, t, older, rfl, hc⟩ := ih h
      exact ⟨i :: newer, t, older, rfl, hc⟩
    cases i with
    | edgeH t =>
      by_cases hc : completes p t past
      · exact ⟨[], t, past, rfl, hc⟩
      · exact hnewer (untaken_edgeH_other hc ▸ h)
    | clrReady | take | reset => cases h
    | _ => exact hnewer h

/-- Each pulse since the newest sync gap ended in an `EDGE.H`, and the gap itself in one more (R55, R56). -/
theorem length_pulses_lt_highEdges {l : List Nat} (h : pulses p past = some l) : l.length < highEdges past := by
  induction past generalizing l with
  | nil => cases h
  | cons i past ih =>
    cases i with
    | edgeH t =>
      rw [highEdges]
      by_cases hd : p.syncTh < duration p t past
      · cases (pulses_edgeH_gap hd).symm.trans h
        exact Nat.succ_pos _
      · rw [pulses_edgeH_pulse hd] at h
        obtain ⟨l, hl, rfl⟩ := Option.map_eq_some_iff.1 h
        exact Nat.succ_lt_succ (ih hl)
    | reset => cases h
    | _ => exact ih h

theorem highEdges_le_append (newer older : List Instr) : highEdges older ≤ highEdges (newer ++ older) := by
  induction newer with
  | nil => exact le_rfl
  | cons i newer ih =>
    cases i with
    | edgeH t => exact ih.trans (Nat.le_succ _)
    | _ => exact ih

end Past

/-- Settles O30: READY is what the past determines, so a frame was completed: its five pulses before the completing event and the gap before them are six HIGH samples, and that event is
the seventh. -/
theorem firstReadyNeedsSyncAndSixCaptures : Obligations.FirstReadyNeedsSyncAndSixCaptures := by
  intro p past s hvalid hwf hrun hready
  rw [(Past.agrees_of_run hvalid hwf hrun).ready] at hready
  obtain ⟨newer, t, older, rfl, hcomp⟩ := Past.exists_completes_of_untaken hready
  obtain ⟨hd, hlen⟩ := Past.completes_iff.1 hcomp
  obtain ⟨l, hl, hl5⟩ := Option.map_eq_some_iff.1 hlen
  refine ⟨?_, newer, t, older, l, rfl, Nat.not_lt.1 hd, hl, hl5⟩
  calc 7 = l.length + 1 + 1 := by rw [hl5]
    _ ≤ Past.highEdges older + 1 := Nat.succ_le_succ (Past.length_pulses_lt_highEdges hl)
    _ = Past.highEdges (.edgeH t :: older) := rfl
    _ ≤ _ := Past.highEdges_le_append newer _

/-! ### A stream without a sync gap -/

theorem noSyncGap_command {p : Params} {ref : Nat} {i : Instr} {is : List Instr} (hi : i.isCommand = true) :
    NoSyncGap p ref (i :: is) = NoSyncGap p ref is := by
  cases i with
  | edgeL _ | edgeH _ | reset => cases hi
  | _ => rfl

/-- In `Done` with READY clear, one instruction of a stream without a sync gap or a reset moves REF and nothing else, and the rest of the stream has no sync gap from there (R58, R107). -/
theorem exec_of_noSyncGap {i : Instr} {is : List Instr} {s s' : State} (hdone : s.core.phase = some .done) (hready : s.core.ready = false)
    (href : s.core.ref < 2 ^ s.params.timeW) (hwf : i.wellFormed s.params = true) (hreset : i ≠ .reset)
    (hgap : NoSyncGap s.params s.core.ref (i :: is)) (hx : exec i s = .next s') :
    ∃ r, s'.core = { s.core with ref := r } ∧ r < 2 ^ s.params.timeW ∧ NoSyncGap s.params r is := by
  obtain ⟨t, rfl, hc⟩ | ⟨t, rfl, hc⟩ | ⟨hi, hc⟩ | ⟨hcmd, -, -, hc⟩ | ⟨rfl, -⟩ := exec_core_cases hx
  · have ht := isTime_iff.1 hwf
    exact ⟨t, by rw [hc, CoreState.recordTime, timeVal_of_lt ht], ht, hgap⟩
  · have ht := isTime_iff.1 hwf
    obtain ⟨hle, hrest⟩ := hgap
    have hidx : 6 ≤ (s.core.recordTime s.params t).idx.toNat := (phase_done_iff.1 hdone).2.ge
    rw [subW_eq_mod href.le, edgeHBranch_of_ignored hle (.inr hidx)] at hc
    exact ⟨t, by rw [hc, CoreState.recordTime, timeVal_of_lt ht], ht, hrest⟩
  · have hcmd : i.isCommand = true := by obtain rfl | rfl := hi <;> rfl
    exact ⟨s.core.ref, by rw [hc, CoreState.clearReady_of_not_ready hready], href, noSyncGap_command hcmd ▸ hgap⟩
  · exact ⟨s.core.ref, hc, href, noSyncGap_command hcmd ▸ hgap⟩
  · exact absurd rfl hreset

/-- Such a stream of any length moves REF and nothing else of CORE. -/
theorem runAll_of_noSyncGap {is : List Instr} {s : State} (hdone : s.core.phase = some .done) (hready : s.core.ready = false)
    (href : s.core.ref < 2 ^ s.params.timeW) (hwf : ∀ i ∈ is, i.wellFormed s.params = true) (hreset : Instr.reset ∉ is)
    (hgap : NoSyncGap s.params s.core.ref is) : ∃ s' r, runAll is s = .next s' ∧ s'.core = { s.core with ref := r } := by
  induction is generalizing s with
  | nil => exact ⟨s, s.core.ref, rfl, rfl⟩
  | cons i is ih =>
    obtain ⟨hi, his⟩ := List.forall_mem_cons.1 hwf
    obtain ⟨s₁, hx⟩ := exec_total i s
    obtain ⟨r₁, hc₁, hr₁, hrest⟩ := exec_of_noSyncGap hdone hready href hi (List.ne_of_not_mem_cons hreset).symm hgap hx
    have hp := (exec_params_inputs hx).1
    obtain ⟨s', r, hrun, hc⟩ := ih (s := s₁) (by rw [hc₁]; exact hdone) (by rw [hc₁]; exact hready) (by rw [hc₁, hp]; exact hr₁)
      (by rwa [hp]) (List.not_mem_of_not_mem_cons hreset) (by rw [hc₁, hp]; exact hrest)
    exact ⟨s', r, by rw [runAll, hx, andThen_next, hrun], by rw [hc, hc₁]⟩

/-- Settles O44: the stream writes REF alone, and REF is in none of the fields named. -/
theorem noSyncGapKeepsDecoderDone : Obligations.NoSyncGapKeepsDecoderDone := by
  intro is s hsync hidx hready href hwf hreset hgap
  have hdone : s.core.phase = some .done := phase_done_iff.2 ⟨hsync, by rw [hidx]; rfl⟩
  obtain ⟨s', r, hrun, hc⟩ := runAll_of_noSyncGap hdone hready href hwf hreset hgap
  exact ⟨s', hrun, by rw [hc]; exact hdone, by rw [hc]; exact hready, by rw [hc], by rw [hc]⟩

/-! ### Races of the host with the stream -/

/-- Settles O24: the split sequence clears READY between its two windows, and SNAP writes nothing. -/
theorem splitHandshakeRaceOutcomes : Obligations.SplitHandshakeRaceOutcomes := by
  intro s s₁ s₂ s₃ gap₁ gap₂ hready hstatus hgap₁ hgap₂
  cases hstatus
  change runAll gap₂ ((s₂.setCore s₂.core.clearReady).respond { ok := true, payload := .empty }) = _ at hgap₂
  refine ⟨s₃.respond { ok := true, payload := .snap s₃.core.buf }, ?_, rfl, rfl, ?_⟩
  · rw [splitTake_eq, if_pos hready, hgap₁, andThen_next, hgap₂, andThen_next]
  · rintro rfl
    cases hgap₂
    rfl

/-- Settles O25: the gap keeps READY and the buffer, the pulse writes the first element alone, and TAKE answers with what is there. -/
theorem lateTakeMixesTwoFrames : Obligations.LateTakeMixesTwoFrames := by
  intro s t₀ t₁ hp href hgap hle hpulse ht₁ hready
  obtain ⟨s₁, hx₁, hp₁, hout₁, hc₁⟩ := exec_edgeH_of_le href (hle.trans_lt ht₁)
  rw [edgeHBranch_of_gap hgap] at hc₁
  obtain ⟨s₂, hx₂, -, hout₂, hc₂⟩ := exec_edgeH_of_le (s := s₁) (t := t₁) (by rw [hc₁]; exact hle) (by rwa [hp₁])
  rw [hc₁, hp₁] at hc₂
  obtain ⟨-, -, hfirst, hothers, hkept, -⟩ :=
    edgeHBranch_of_capture (t := t₁) (c := CoreState.acquireSync { s.core with ref := t₁ }) (k := 0) hpulse rfl rfl (by decide)
  have hready₂ : s₂.core.ready = true := by rw [hc₂]; exact hkept.trans hready
  refine ⟨_, s₂.core.buf, runAll_append_singleton (runAll_pair hx₁ hx₂) (exec_take s₂), ?_, ?_, fun i hi => ?_⟩
  · rw [State.respond_out, State.setCore_out, hout₂, hout₁, hready₂]
  · rw [hc₂]
    exact hfirst.trans (channelVal_eq_max_min hp _)
  · rw [hc₂]
    exact hothers i i.isLt (Fin.val_ne_of_ne hi)

end Sys2Proof.Machine
end
